-- ==== Sys2Proof/Word.lean ====
section
/-! DEFINITION. The words of the machine (spec/00_scope.md R7, R9, R10): every value is unsigned and of a fixed width. -/

namespace Sys2Proof

/-- A data byte: a general register, a timer, a byte of memory (R7). -/
abbrev Byte := BitVec 8

/-- A 16-bit word: an instruction word, `pc`, `I`, `sp`, a stack entry (R7). -/
abbrev Word := BitVec 16

/-- A 4-bit field of an instruction word (R9, R91). -/
abbrev Nibble := BitVec 4

/-- The number of a general register V0 to VF (R22, R94): every value 0 to 15 is legal. -/
abbrev Reg := Fin 16

/-- The number of VF, the general register that is also the flag register (R11, R23). -/
abbrev VF : Reg := 15

end Sys2Proof
end

