-- ==== Sys2Proof/Machine/Flags.lean ====
section
/-! DEFINITION. The values that the flag writers put into VF (spec/10_state.md R23): each is 0 or 1 (R170, decision D16). -/

namespace Sys2Proof.Machine

/-- A truth value in a register: 1 or 0 (R10). -/
def flagOf (c : Bool) : Byte := if c then 1 else 0

/-- 8XY4: 1 when the sum of the operands exceeds 255 (R178). -/
def carryFlag (a b : Byte) : Byte := flagOf (decide (a.toNat + b.toNat > 255))

/-- 8XY5 and 8XY7: NOT borrow of `a - b`, where a borrow occurs exactly when `a < b` (R179, R181; G3). -/
def notBorrowFlag (a b : Byte) : Byte := flagOf (!decide (a.toNat < b.toNat))

/-- 8XY6: bit 0 before the shift (R180). -/
def lsbFlag (a : Byte) : Byte := a &&& 1

/-- 8XYE: bit 7 before the shift, as 0 or 1 (R182). -/
def msbFlag (a : Byte) : Byte := (a >>> 7) &&& 1

/-- DXYN: 1 when some cell went from on to off (R262, R265). -/
def collisionFlag (c : Bool) : Byte := flagOf c

end Sys2Proof.Machine
end

