-- ==== Sys2Proof/Config.lean ====
section
/-! DEFINITION. What the spec leaves open (spec/00_scope.md R8): the parameters `FONT` and `RAND`, and the values that a
fault leaves unspecified (spec/60_exceptions.md R336). Each is a constant with no body, so that a statement about the machine
holds whatever its value is. -/

namespace Sys2Proof

/-- `FONT`, the 80 bytes that `create` and `reset` place at addresses 0x000 to 0x04F (R8, R40; decision D6 leaves it open).
DESIGN CHOICE (log entry 1), safe: a free value. -/
opaque Config.font : Vector Byte 80

/-- `RAND`, the source of the random byte of each CXNN (R8, R183; decision D7 leaves it open): the byte of the `n`-th draw.
DESIGN CHOICE (log entry 2), unsafe only for claims that compare two draws with the same number: a free value. -/
opaque Config.rand : Nat → Byte

/-- What a fault may leave in every component but the status (R336: unspecified). Memory is given byte by byte. -/
structure Config.Leftover where
  V      : Vector Byte 16
  pc     : Word
  I      : Word
  sp     : Word
  stack  : Vector Word 16
  DT     : Byte
  ST     : Byte
  key    : Vector Bool 16
  disp   : Vector (Vector Bool 64) 32
  byteAt : Nat → Byte
  deriving Inhabited

/-- The unspecified values a fault leaves behind, numbered by the model's counter of free values (R336, U11).
DESIGN CHOICE (log entry 4), safe: free values. -/
opaque Config.leftover : Nat → Config.Leftover

end Sys2Proof
end

