-- ==== Sys2Proof/Syntax.lean ====
section
/-! DEFINITION. The instructions: one constructor for each row of spec/opcode_table.json, in the table's order, with the
operands of spec/30_encoding.md R91, R92 and R106. A register operand is its number, `nn` a byte, `nnn` an address (R93: it is
used zero-extended to 16 bits) and `n` a count (R93). -/

namespace Sys2Proof

inductive Instr where
  /-- `NOP` 0000 (R134) -/
  | nop
  /-- `CLS` 00E0 (R261) -/
  | cls
  /-- `RET` 00EE (R135) -/
  | ret
  /-- `JP addr` 1NNN (R136) -/
  | jp (nnn : Word)
  /-- `CALL addr` 2NNN (R137) -/
  | call (nnn : Word)
  /-- `SE Vx, byte` 3XNN (R138) -/
  | seByte (x : Reg) (nn : Byte)
  /-- `SNE Vx, byte` 4XNN (R139) -/
  | sneByte (x : Reg) (nn : Byte)
  /-- `SE Vx, Vy` 5XY0 (R140) -/
  | seReg (x y : Reg)
  /-- `LD Vx, byte` 6XNN (R172) -/
  | ldByte (x : Reg) (nn : Byte)
  /-- `ADD Vx, byte` 7XNN (R173) -/
  | addByte (x : Reg) (nn : Byte)
  /-- `LD Vx, Vy` 8XY0 (R174) -/
  | ldReg (x y : Reg)
  /-- `OR Vx, Vy` 8XY1 (R175) -/
  | orReg (x y : Reg)
  /-- `AND Vx, Vy` 8XY2 (R176) -/
  | andReg (x y : Reg)
  /-- `XOR Vx, Vy` 8XY3 (R177) -/
  | xorReg (x y : Reg)
  /-- `ADD Vx, Vy` 8XY4 (R178) -/
  | addReg (x y : Reg)
  /-- `SUB Vx, Vy` 8XY5 (R179) -/
  | subReg (x y : Reg)
  /-- `SHR Vx, Vy` 8XY6 (R180); `y` is encoded and not read -/
  | shr (x y : Reg)
  /-- `SUBN Vx, Vy` 8XY7 (R181) -/
  | subnReg (x y : Reg)
  /-- `SHL Vx, Vy` 8XYE (R182); `y` is encoded and not read -/
  | shl (x y : Reg)
  /-- `SNE Vx, Vy` 9XY0 (R141) -/
  | sneReg (x y : Reg)
  /-- `LD I, addr` ANNN (R221) -/
  | ldI (nnn : Word)
  /-- `JP V0, addr` BNNN (R142) -/
  | jpV0 (nnn : Word)
  /-- `RND Vx, byte` CXNN (R183) -/
  | rnd (x : Reg) (nn : Byte)
  /-- `DRW Vx, Vy, n` DXYN (R262) -/
  | drw (x y : Reg) (n : Nat)
  /-- `SKP Vx` EX9E (R291) -/
  | skp (x : Reg)
  /-- `SKNP Vx` EXA1 (R292) -/
  | sknp (x : Reg)
  /-- `LD Vx, DT` FX07 (R293) -/
  | ldVxDT (x : Reg)
  /-- `LD Vx, K` FX0A (R294) -/
  | ldVxK (x : Reg)
  /-- `LD DT, Vx` FX15 (R295) -/
  | ldDTVx (x : Reg)
  /-- `LD ST, Vx` FX18 (R296) -/
  | ldSTVx (x : Reg)
  /-- `ADD I, Vx` FX1E (R222) -/
  | addIVx (x : Reg)
  /-- `LD F, Vx` FX29 (R223) -/
  | ldFVx (x : Reg)
  /-- `LD B, Vx` FX33 (R224) -/
  | ldBVx (x : Reg)
  /-- `LD [I], Vx` FX55 (R225) -/
  | storeRegs (x : Reg)
  /-- `LD Vx, [I]` FX65 (R226) -/
  | loadRegs (x : Reg)
  deriving DecidableEq, Repr

end Sys2Proof
end

