-- ==== Sys2Proof/WellFormed.lean ====
section
/-! DEFINITION. Which instructions an instruction word can hold (spec/30_encoding.md R91, R92): an address immediate has 12 bits
and a sprite height 4. Register numbers and byte immediates are bounded by their types, and every register number is legal
(R94). Log entry 11. -/

namespace Sys2Proof

/-- An address immediate fits the 12-bit field NNN (R91, R93). -/
def fitsAddr (nnn : Word) : Bool := decide (nnn.toNat < 4096)

/-- A sprite height fits the 4-bit field N (R91, R93). -/
def fitsHeight (n : Nat) : Bool := decide (n < 16)

/-- The operands of the instruction fit the fields of its format (R92). -/
def Instr.wellFormed : Instr → Bool
  | .nop => true
  | .cls => true
  | .ret => true
  | .jp nnn => fitsAddr nnn
  | .call nnn => fitsAddr nnn
  | .seByte _ _ => true
  | .sneByte _ _ => true
  | .seReg _ _ => true
  | .ldByte _ _ => true
  | .addByte _ _ => true
  | .ldReg _ _ => true
  | .orReg _ _ => true
  | .andReg _ _ => true
  | .xorReg _ _ => true
  | .addReg _ _ => true
  | .subReg _ _ => true
  | .shr _ _ => true
  | .subnReg _ _ => true
  | .shl _ _ => true
  | .sneReg _ _ => true
  | .ldI nnn => fitsAddr nnn
  | .jpV0 nnn => fitsAddr nnn
  | .rnd _ _ => true
  | .drw _ _ n => fitsHeight n
  | .skp _ => true
  | .sknp _ => true
  | .ldVxDT _ => true
  | .ldVxK _ => true
  | .ldDTVx _ => true
  | .ldSTVx _ => true
  | .addIVx _ => true
  | .ldFVx _ => true
  | .ldBVx _ => true
  | .storeRegs _ => true
  | .loadRegs _ => true

end Sys2Proof
end

