-- ==== Sys2Proof/Decode.lean ====
section
/-! DEFINITION. The instruction encoding of spec/30_encoding.md: the fields of a word (R91), the decoder (R97 to R105), the
encoder from the same formats (R92), and the opcode table's masks and patterns. -/

namespace Sys2Proof

/-! ## Fields of a word (R9, R91) -/

/-- `d1`, bits 15 to 12: the major opcode. -/
def fieldD1 (w : Word) : Nibble := w.extractLsb' 12 4

/-- `d2`, bits 11 to 8. -/
def fieldD2 (w : Word) : Nibble := w.extractLsb' 8 4

/-- `d3`, bits 7 to 4. -/
def fieldD3 (w : Word) : Nibble := w.extractLsb' 4 4

/-- `d4`, bits 3 to 0. -/
def fieldD4 (w : Word) : Nibble := w.extractLsb' 0 4

/-- `X`: the register number in `d2`. -/
def fieldX (w : Word) : Reg := (fieldD2 w).toFin

/-- `Y`: the register number in `d3`. -/
def fieldY (w : Word) : Reg := (fieldD3 w).toFin

/-- `N`: the count in `d4`. -/
def fieldN (w : Word) : Nat := (fieldD4 w).toNat

/-- `NN`: the byte in bits 7 to 0. -/
def fieldNN (w : Word) : Byte := w.extractLsb' 0 8

/-- `NNN`: the address in bits 11 to 0, zero-extended to 16 bits (R93). -/
def fieldNNN (w : Word) : Word := (w.extractLsb' 0 12).setWidth 16

/-- The word at two consecutive bytes, the byte at the lower address in the high half (R64). -/
def wordOfBytes (hi lo : Byte) : Word := hi ++ lo

/-- The byte of a word at the lower address (R64). -/
def highByte (w : Word) : Byte := w.extractLsb' 8 8

/-- The byte of a word at the higher address (R64). -/
def lowByte (w : Word) : Byte := w.extractLsb' 0 8

/-! ## The decoder -/

/-- `d1 = 0`: exactly three words are legal (R99). -/
def decodeD0 (w : Word) : Option Instr :=
  if w = 0x0000#16 then some .nop
  else if w = 0x00E0#16 then some .cls
  else if w = 0x00EE#16 then some .ret
  else none

/-- `d1 = 8`, selected by `d4` (R100). -/
def decodeD8 (w : Word) : Option Instr :=
  match (fieldD4 w).toNat with
  | 0x0 => some (.ldReg (fieldX w) (fieldY w))
  | 0x1 => some (.orReg (fieldX w) (fieldY w))
  | 0x2 => some (.andReg (fieldX w) (fieldY w))
  | 0x3 => some (.xorReg (fieldX w) (fieldY w))
  | 0x4 => some (.addReg (fieldX w) (fieldY w))
  | 0x5 => some (.subReg (fieldX w) (fieldY w))
  | 0x6 => some (.shr (fieldX w) (fieldY w))
  | 0x7 => some (.subnReg (fieldX w) (fieldY w))
  | 0xE => some (.shl (fieldX w) (fieldY w))
  | _ => none

/-- `d1 = 0xE`, selected by bits 7 to 0 (R101). -/
def decodeDE (w : Word) : Option Instr :=
  match (fieldNN w).toNat with
  | 0x9E => some (.skp (fieldX w))
  | 0xA1 => some (.sknp (fieldX w))
  | _ => none

/-- `d1 = 0xF`, selected by bits 7 to 0 (R102). -/
def decodeDF (w : Word) : Option Instr :=
  match (fieldNN w).toNat with
  | 0x07 => some (.ldVxDT (fieldX w))
  | 0x0A => some (.ldVxK (fieldX w))
  | 0x15 => some (.ldDTVx (fieldX w))
  | 0x18 => some (.ldSTVx (fieldX w))
  | 0x1E => some (.addIVx (fieldX w))
  | 0x29 => some (.ldFVx (fieldX w))
  | 0x33 => some (.ldBVx (fieldX w))
  | 0x55 => some (.storeRegs (fieldX w))
  | 0x65 => some (.loadRegs (fieldX w))
  | _ => none

/-- `decode(w)` of R97, dispatching on `d1` as R98 does: the instruction the word encodes, or `none` for an illegal word
(R104, R105). `d1 = 5` and `d1 = 9` are legal only with `d4 = 0` (R103). -/
def decodeWord (w : Word) : Option Instr :=
  match (fieldD1 w).toNat with
  | 0x0 => decodeD0 w
  | 0x1 => some (.jp (fieldNNN w))
  | 0x2 => some (.call (fieldNNN w))
  | 0x3 => some (.seByte (fieldX w) (fieldNN w))
  | 0x4 => some (.sneByte (fieldX w) (fieldNN w))
  | 0x5 => if fieldN w = 0 then some (.seReg (fieldX w) (fieldY w)) else none
  | 0x6 => some (.ldByte (fieldX w) (fieldNN w))
  | 0x7 => some (.addByte (fieldX w) (fieldNN w))
  | 0x8 => decodeD8 w
  | 0x9 => if fieldN w = 0 then some (.sneReg (fieldX w) (fieldY w)) else none
  | 0xA => some (.ldI (fieldNNN w))
  | 0xB => some (.jpV0 (fieldNNN w))
  | 0xC => some (.rnd (fieldX w) (fieldNN w))
  | 0xD => some (.drw (fieldX w) (fieldY w) (fieldN w))
  | 0xE => decodeDE w
  | 0xF => decodeDF w
  | _ => none

/-- Why bytes are not an instruction. -/
inductive DecodeError where
  /-- fewer than the two bytes that every instruction has (R90) -/
  | tooFewBytes
  /-- the word matches no row of the opcode table (R104) -/
  | unimplementedOpcode (w : Word)
  deriving DecidableEq, Repr

/-- The decoder on bytes, the first at the lowest address: it always consumes two (R90) and gives back the rest. -/
def decode : List Byte → Except DecodeError (Instr × List Byte)
  | [] => .error .tooFewBytes
  | [_] => .error .tooFewBytes
  | hi :: lo :: rest =>
    match decodeWord (wordOfBytes hi lo) with
    | some i => .ok (i, rest)
    | none => .error (.unimplementedOpcode (wordOfBytes hi lo))

/-- The instruction the decoder reads from a word of the opcode table: `w`, of which the bits above `nbits` are 0, laid out big-endian (R64). -/
def decodeTableWord (nbits w : Nat) : Option Instr :=
  let word : Word := BitVec.ofNat 16 (w % 2 ^ nbits)
  match decode [highByte word, lowByte word] with
  | .ok (i, _) => some i
  | .error _ => none

/-! ## The encoder -/

/-- A register number as a field. -/
def regField (x : Reg) : Nibble := BitVec.ofFin x

/-- Format `F-NNN` (R92). -/
def formatNNN (d1 : Nibble) (nnn : Word) : Word := d1 ++ nnn.setWidth 12

/-- Format `F-XNN` (R92), and `F-X` with the fixed byte as `nn`. -/
def formatXNN (d1 : Nibble) (x : Reg) (nn : Byte) : Word := d1 ++ regField x ++ nn

/-- Format `F-XYN` (R92), and `F-XY` with the fixed nibble as `n`. -/
def formatXYN (d1 : Nibble) (x y : Reg) (n : Nibble) : Word := d1 ++ regField x ++ regField y ++ n

/-- The word of a well-formed instruction, from the formats of R92 and the fixed bits of R98 to R103. -/
def encode : Instr → Word
  | .nop => 0x0000#16
  | .cls => 0x00E0#16
  | .ret => 0x00EE#16
  | .jp nnn => formatNNN 0x1#4 nnn
  | .call nnn => formatNNN 0x2#4 nnn
  | .seByte x nn => formatXNN 0x3#4 x nn
  | .sneByte x nn => formatXNN 0x4#4 x nn
  | .seReg x y => formatXYN 0x5#4 x y 0x0#4
  | .ldByte x nn => formatXNN 0x6#4 x nn
  | .addByte x nn => formatXNN 0x7#4 x nn
  | .ldReg x y => formatXYN 0x8#4 x y 0x0#4
  | .orReg x y => formatXYN 0x8#4 x y 0x1#4
  | .andReg x y => formatXYN 0x8#4 x y 0x2#4
  | .xorReg x y => formatXYN 0x8#4 x y 0x3#4
  | .addReg x y => formatXYN 0x8#4 x y 0x4#4
  | .subReg x y => formatXYN 0x8#4 x y 0x5#4
  | .shr x y => formatXYN 0x8#4 x y 0x6#4
  | .subnReg x y => formatXYN 0x8#4 x y 0x7#4
  | .shl x y => formatXYN 0x8#4 x y 0xE#4
  | .sneReg x y => formatXYN 0x9#4 x y 0x0#4
  | .ldI nnn => formatNNN 0xA#4 nnn
  | .jpV0 nnn => formatNNN 0xB#4 nnn
  | .rnd x nn => formatXNN 0xC#4 x nn
  | .drw x y n => formatXYN 0xD#4 x y (BitVec.ofNat 4 n)
  | .skp x => formatXNN 0xE#4 x 0x9E#8
  | .sknp x => formatXNN 0xE#4 x 0xA1#8
  | .ldVxDT x => formatXNN 0xF#4 x 0x07#8
  | .ldVxK x => formatXNN 0xF#4 x 0x0A#8
  | .ldDTVx x => formatXNN 0xF#4 x 0x15#8
  | .ldSTVx x => formatXNN 0xF#4 x 0x18#8
  | .addIVx x => formatXNN 0xF#4 x 0x1E#8
  | .ldFVx x => formatXNN 0xF#4 x 0x29#8
  | .ldBVx x => formatXNN 0xF#4 x 0x33#8
  | .storeRegs x => formatXNN 0xF#4 x 0x55#8
  | .loadRegs x => formatXNN 0xF#4 x 0x65#8

/-- The bytes of an instruction in memory order (R64, R90). -/
def encodeBytes (i : Instr) : List Byte := [highByte (encode i), lowByte (encode i)]

/-! ## The opcode table -/

/-- A row of spec/opcode_table.json: its name, its `match` and its `mask`. -/
structure OpcodeRow where
  mnemonic : String
  pattern  : Word
  mask     : Word
  deriving DecidableEq, Repr

/-- The rows `d1 = 0` to `d1 = 7`. -/
def opcodeRowsLow : List OpcodeRow :=
  [ { mnemonic := "NOP", pattern := 0x0000#16, mask := 0xFFFF#16 },
    { mnemonic := "CLS", pattern := 0x00E0#16, mask := 0xFFFF#16 },
    { mnemonic := "RET", pattern := 0x00EE#16, mask := 0xFFFF#16 },
    { mnemonic := "JP_addr", pattern := 0x1000#16, mask := 0xF000#16 },
    { mnemonic := "CALL_addr", pattern := 0x2000#16, mask := 0xF000#16 },
    { mnemonic := "SE_Vx__byte", pattern := 0x3000#16, mask := 0xF000#16 },
    { mnemonic := "SNE_Vx__byte", pattern := 0x4000#16, mask := 0xF000#16 },
    { mnemonic := "SE_Vx__Vy", pattern := 0x5000#16, mask := 0xF00F#16 },
    { mnemonic := "LD_Vx__byte", pattern := 0x6000#16, mask := 0xF000#16 },
    { mnemonic := "ADD_Vx__byte", pattern := 0x7000#16, mask := 0xF000#16 } ]

/-- The rows `d1 = 8`. -/
def opcodeRowsAlu : List OpcodeRow :=
  [ { mnemonic := "LD_Vx__Vy", pattern := 0x8000#16, mask := 0xF00F#16 },
    { mnemonic := "OR_Vx__Vy", pattern := 0x8001#16, mask := 0xF00F#16 },
    { mnemonic := "AND_Vx__Vy", pattern := 0x8002#16, mask := 0xF00F#16 },
    { mnemonic := "XOR_Vx__Vy", pattern := 0x8003#16, mask := 0xF00F#16 },
    { mnemonic := "ADD_Vx__Vy", pattern := 0x8004#16, mask := 0xF00F#16 },
    { mnemonic := "SUB_Vx__Vy", pattern := 0x8005#16, mask := 0xF00F#16 },
    { mnemonic := "SHR_Vx__Vy", pattern := 0x8006#16, mask := 0xF00F#16 },
    { mnemonic := "SUBN_Vx__Vy", pattern := 0x8007#16, mask := 0xF00F#16 },
    { mnemonic := "SHL_Vx__Vy", pattern := 0x800E#16, mask := 0xF00F#16 } ]

/-- The rows `d1 = 9` to `d1 = 0xE`. -/
def opcodeRowsMiddle : List OpcodeRow :=
  [ { mnemonic := "SNE_Vx__Vy", pattern := 0x9000#16, mask := 0xF00F#16 },
    { mnemonic := "LD_I__addr", pattern := 0xA000#16, mask := 0xF000#16 },
    { mnemonic := "JP_V0__addr", pattern := 0xB000#16, mask := 0xF000#16 },
    { mnemonic := "RND_Vx__byte", pattern := 0xC000#16, mask := 0xF000#16 },
    { mnemonic := "DRW_Vx__Vy__n", pattern := 0xD000#16, mask := 0xF000#16 },
    { mnemonic := "SKP_Vx", pattern := 0xE09E#16, mask := 0xF0FF#16 },
    { mnemonic := "SKNP_Vx", pattern := 0xE0A1#16, mask := 0xF0FF#16 } ]

/-- The rows `d1 = 0xF`. -/
def opcodeRowsF : List OpcodeRow :=
  [ { mnemonic := "LD_Vx__DT", pattern := 0xF007#16, mask := 0xF0FF#16 },
    { mnemonic := "LD_Vx__K", pattern := 0xF00A#16, mask := 0xF0FF#16 },
    { mnemonic := "LD_DT__Vx", pattern := 0xF015#16, mask := 0xF0FF#16 },
    { mnemonic := "LD_ST__Vx", pattern := 0xF018#16, mask := 0xF0FF#16 },
    { mnemonic := "ADD_I__Vx", pattern := 0xF01E#16, mask := 0xF0FF#16 },
    { mnemonic := "LD_F__Vx", pattern := 0xF029#16, mask := 0xF0FF#16 },
    { mnemonic := "LD_B__Vx", pattern := 0xF033#16, mask := 0xF0FF#16 },
    { mnemonic := "LD__I___Vx", pattern := 0xF055#16, mask := 0xF0FF#16 },
    { mnemonic := "LD_Vx___I", pattern := 0xF065#16, mask := 0xF0FF#16 } ]

/-- The opcode table's 35 rows (R97), in the table's order, written out apart from the decoder. -/
def opcodeRows : List OpcodeRow := opcodeRowsLow ++ opcodeRowsAlu ++ opcodeRowsMiddle ++ opcodeRowsF

/-- The row's fixed bits equal those of `w` (R97). -/
def rowMatches (w : Word) (r : OpcodeRow) : Bool := decide (w &&& r.mask = r.pattern)

/-- The place in `opcodeRows` of the row an instruction stands for. -/
def rowIndex : Instr → Fin 35
  | .nop => 0
  | .cls => 1
  | .ret => 2
  | .jp _ => 3
  | .call _ => 4
  | .seByte _ _ => 5
  | .sneByte _ _ => 6
  | .seReg _ _ => 7
  | .ldByte _ _ => 8
  | .addByte _ _ => 9
  | .ldReg _ _ => 10
  | .orReg _ _ => 11
  | .andReg _ _ => 12
  | .xorReg _ _ => 13
  | .addReg _ _ => 14
  | .subReg _ _ => 15
  | .shr _ _ => 16
  | .subnReg _ _ => 17
  | .shl _ _ => 18
  | .sneReg _ _ => 19
  | .ldI _ => 20
  | .jpV0 _ => 21
  | .rnd _ _ => 22
  | .drw _ _ _ => 23
  | .skp _ => 24
  | .sknp _ => 25
  | .ldVxDT _ => 26
  | .ldVxK _ => 27
  | .ldDTVx _ => 28
  | .ldSTVx _ => 29
  | .addIVx _ => 30
  | .ldFVx _ => 31
  | .ldBVx _ => 32
  | .storeRegs _ => 33
  | .loadRegs _ => 34

/-- The row an instruction stands for. -/
def rowOf (i : Instr) : OpcodeRow := opcodeRows[rowIndex i]

end Sys2Proof
end

