-- ==== Sys2Proof/Machine/State.lean ====
section
/-! DEFINITION. The state of the machine (spec/10_state.md R20, R21), why it can stop, and the state after reset (R40). -/

namespace Sys2Proof.Machine

/-- The faults of spec/60_exceptions.md R331. Each is fatal (R330, R337): the machine stops and only `create` or `reset`
follows. Every constructor holds the record's `info`, and `site`, the record's `at`, the address of the instruction
(`loadOOB` has none, and for `fetchOOB` it is the `info`). All are the spec's own, so stopping there is safe. -/
inductive Fault where
  /-- 1.1 FetchOOB: the fetch of `step` at `p` with `p + 1 ≥ 4096` (R95). Safe. -/
  | fetchOOB (p : Word)
  /-- 1.2 LoadOOB: the transaction `load` with more than 3584 bytes (R373). Safe. -/
  | loadOOB (length : Nat)
  /-- 1.3 StackOverflow: `push`, used by 2NNN, with `sp ≥ 16` (R131). Safe. -/
  | stackOverflow (sp : Word) (site : Word)
  /-- 1.4 StackUnderflow: `pop`, used by 00EE, with `sp = 0` (R132). Safe. -/
  | stackUnderflow (site : Word)
  /-- 1.5 MemOOB: a data access of DXYN, FX33, FX55 or FX65 at an address `a ≥ 4096` (R66). Safe. -/
  | memOOB (a : Nat) (site : Word)
  /-- 1.6 KeyOOB: EX9E or EXA1 with a key index `V[X] ≥ 16` (R291, R292). Safe. -/
  | keyOOB (k : Byte) (site : Word)
  /-- 2 UnimplementedOpcode: `step` on a word that matches no row of the opcode table (R104). Safe. -/
  | unimplementedOpcode (w : Word) (site : Word)
  deriving DecidableEq, Repr

/-- Why the machine gives a transaction no meaning. -/
inductive Refusal where
  /-- raised by an arm of `exec` that has no meaning yet (no arm has this refusal now). Safe. -/
  | notModelled (mnemonic : String)
  /-- raised by every transaction but `create` and `reset` on a faulted machine (R337, decision D5). Safe. -/
  | machineFaulted (f : Fault)
  /-- raised by `key_press` with an index outside 0 to 15 (R290, decision D23). Safe. -/
  | keyIndexOutOfRange (k : Nat)
  /-- raised by 00EE in a state whose `sp` is above 16, which R36 says is no legal value: no run reaches one (log entry 5). Safe. -/
  | illegalStackPointer (sp : Word)
  deriving DecidableEq, Repr

/-- The run status (R39). -/
inductive Status where
  | running
  | faulted (f : Fault)
  deriving DecidableEq, Repr

/-- Memory (R34, R60): the bytes that differ from the reset contents, by strictly rising address (log entry 8). -/
abbrev Memory := List Host.Cell

/-- The display grid (R33, R260): row `y`, then column `x`; true is on. -/
abbrev Display := Vector (Vector Bool 64) 32

/-- The machine state (R21). `draws` is the model's own field: how many free values have been taken (log entry 2). -/
structure State where
  /-- general registers V0 to VF (R22) -/
  V      : Vector Byte 16
  /-- program counter (R26) -/
  pc     : Word
  /-- index register (R29) -/
  I      : Word
  /-- stack pointer: the number of entries in use (R30) -/
  sp     : Word
  /-- return-address stack (R30) -/
  stack  : Vector Word 16
  /-- delay timer (R31) -/
  DT     : Byte
  /-- sound timer (R31) -/
  ST     : Byte
  /-- key flags, true is pressed (R32) -/
  key    : Vector Bool 16
  /-- display buffer (R33) -/
  disp   : Display
  /-- memory (R34) -/
  mem    : Memory
  /-- run status (R39) -/
  status : Status
  /-- the model's counter of free values taken (R8's `RAND`, and R336) -/
  draws  : Nat
  deriving DecidableEq, Repr

/-- The state that `create` produces (R40, R370): every component zero, off or false, `pc` at the origin 0x200, and memory with
nothing listed, so that it reads as `FONT` below 0x050 and as zero above. -/
def State.reset : State where
  V      := Vector.replicate 16 0
  pc     := 0x200
  I      := 0
  sp     := 0
  stack  := Vector.replicate 16 0
  DT     := 0
  ST     := 0
  key    := Vector.replicate 16 false
  disp   := Vector.replicate 32 (Vector.replicate 64 false)
  mem    := []
  status := .running
  draws  := 0

end Sys2Proof.Machine
end

