-- ==== Sys2Proof/Machine/Ops.lean ====
section
/-! DEFINITION. The named operations over the state: registers, memory, the stack unit, the display grid, the skip, the random
draw, the instruction fetch, and taking a fault (spec/00_scope.md R12, 10_state.md, 20_memory.md, 40_control.md R130 to R133,
43_display.md R260, 60_exceptions.md R335). Every instruction reads and writes the state through these. -/

namespace Sys2Proof.Machine

/-- What a transaction part answers: a value, a fault or a refusal. -/
abbrev Result (α : Type) := Host.Outcome α Fault Refusal

/-- Statements run in the order written, and a raise ends them (R13). -/
def andThen {α β : Type} (r : Result α) (k : α → Result β) : Result β :=
  match r with
  | .next a => k a
  | .fault f => .fault f
  | .refused e => .refused e

/-! ## Registers -/

/-- `V[x]` (R11). -/
def State.getV (s : State) (x : Reg) : Byte := s.V[x]

/-- `V[x] <- b` (R11): no register is hardwired (R22). -/
def State.setV (s : State) (x : Reg) (b : Byte) : State := { s with V := s.V.set x b }

/-- `pc <- w` (R11). -/
def State.setPc (s : State) (w : Word) : State := { s with pc := w }

/-- `I <- w`. -/
def State.setI (s : State) (w : Word) : State := { s with I := w }

/-- `sp <- w`. -/
def State.setSp (s : State) (w : Word) : State := { s with sp := w }

/-- `stack[k] <- w`. -/
def State.setStack (s : State) (k : Fin 16) (w : Word) : State := { s with stack := s.stack.set k w }

/-- `DT <- b`. -/
def State.setDT (s : State) (b : Byte) : State := { s with DT := b }

/-- `ST <- b`. -/
def State.setST (s : State) (b : Byte) : State := { s with ST := b }

/-- `key[k] <- pressed`. -/
def State.setKey (s : State) (k : Fin 16) (pressed : Bool) : State := { s with key := s.key.set k pressed }

/-- The display buffer becomes `d`. -/
def State.setDisp (s : State) (d : Display) : State := { s with disp := d }

/-- One more free value is taken. -/
def State.countDraw (s : State) : State := { s with draws := s.draws + 1 }

/-- `p`, the address of the instruction being executed: `pc` holds `p + 2` during execute (R26). -/
def State.site (s : State) : Word := s.pc - 2

/-! ## Memory -/

/-- What an address that is not listed reads as: the reset contents (R40), `FONT` below 0x050 and zero from there on. -/
def resetByte (a : Nat) : Byte := if h : a < 80 then Config.font[a] else 0

/-- The byte listed at an address. -/
def Memory.listed : Memory → Nat → Option Byte
  | [], _ => none
  | (k, v) :: m, a => if k = a then some v else Memory.listed m a

/-- `mem[a]`, with no bounds check. -/
def Memory.byte (m : Memory) (a : Nat) : Byte := (Memory.listed m a).getD (resetByte a)

/-- The cells to list for the byte `b` at `a`: none where `b` is what an unlisted `a` reads as. -/
def Memory.cell (a : Nat) (b : Byte) (m : Memory) : Memory := if b = resetByte a then m else (a, b) :: m

/-- `mem[a] <- b`, with no bounds check, keeping the canonical form. -/
def Memory.put : Memory → Nat → Byte → Memory
  | [], a, b => Memory.cell a b []
  | (k, v) :: m, a, b =>
    if a < k then Memory.cell a b ((k, v) :: m)
    else if a = k then Memory.cell a b m
    else (k, v) :: Memory.put m a b

/-- Successive bytes to successive addresses from `a` (R65), with no bounds check. -/
def Memory.putBytes : Memory → Nat → List Byte → Memory
  | m, _, [] => m
  | m, a, b :: bs => Memory.putBytes (Memory.put m a b) (a + 1) bs

/-- The canonical form from the address `lo` up. -/
def Memory.wfFrom : Nat → Memory → Bool
  | _, [] => true
  | lo, (a, b) :: m => decide (lo ≤ a) && decide (a < 4096) && decide (b ≠ resetByte a) && Memory.wfFrom (a + 1) m

/-- The canonical form of memory: addresses strictly rising and below 4096 (R60), and no byte equal to what an unlisted address
reads as. -/
def Memory.wf (m : Memory) : Bool := Memory.wfFrom 0 m

/-- The memory that holds `f a` at the `n` addresses from `a`. -/
def Memory.ofBytes (f : Nat → Byte) : Nat → Nat → Memory
  | _, 0 => []
  | a, n + 1 => Memory.cell a (f a) (Memory.ofBytes f (a + 1) n)

/-- `mem[a]` of a state, with no bounds check. -/
def State.byteAt (s : State) (a : Nat) : Byte := Memory.byte s.mem a

/-- `mem[a] <- b` of a state, with no bounds check. -/
def State.setByte (s : State) (a : Nat) (b : Byte) : State := { s with mem := Memory.put s.mem a b }

/-- `MemRead(a, 1)` (R12, R66): the address is a natural number that never wraps. -/
def memRead (s : State) (a : Nat) : Result Byte :=
  if a ≥ 4096 then .fault (.memOOB a s.site) else .next (s.byteAt a)

/-- `MemWrite(a, 1, b)` (R12, R66). -/
def memWrite (s : State) (a : Nat) (b : Byte) : Result State :=
  if a ≥ 4096 then .fault (.memOOB a s.site) else .next (s.setByte a b)

/-- `MemWrite` of successive bytes at successive addresses from `a` (R65): FX33 and FX55. -/
def storeBytes : List Byte → Nat → State → Result State
  | [], _, s => .next s
  | b :: bs, a, s => andThen (memWrite s a b) fun s' => storeBytes bs (a + 1) s'

/-- `V[k] <- MemRead(a + k, 1)` for `n` successive registers from `V[k]` (R226). There is no register above V15. -/
def loadBytes : Nat → Nat → Nat → State → Result State
  | 0, _, _, s => .next s
  | n + 1, k, a, s => andThen (memRead s (a + k)) fun b =>
      loadBytes n (k + 1) a (if h : k < 16 then s.setV ⟨k, h⟩ b else s)

/-! ## The stack unit (R130) -/

/-- `push(v)` (R131). -/
def push (v : Word) (s : State) : Result State :=
  if h : s.sp.toNat < 16 then .next ((s.setStack ⟨s.sp.toNat, h⟩ v).setSp (s.sp + 1))
  else .fault (.stackOverflow s.sp s.site)

/-- `pop()` (R132): the popped word, which its entry keeps, and the state after. An `sp` above 16 is no legal value (R36): such a
state, which no run reaches, is refused (log entry 5). -/
def pop (s : State) : Result (Word × State) :=
  if s.sp.toNat = 0 then .fault (.stackUnderflow s.site)
  else if h : s.sp.toNat ≤ 16 then .next (s.stack[s.sp.toNat - 1]'(by omega), s.setSp (s.sp - 1))
  else .refused (.illegalStackPointer s.sp)

/-! ## Control and keys -/

/-- `skip_if(c)` (R133). -/
def skipIf (c : Bool) (s : State) : State := if c then s.setPc (s.pc + 2) else s

/-- `key[k]` for the index `k` that a register holds (R291, R292). -/
def readKey (k : Byte) (s : State) : Result Bool :=
  if h : k.toNat < 16 then .next s.key[k.toNat] else .fault (.keyOOB k s.site)

/-- `draw RAND()` (R8, R12): the byte, and the state in which it is taken. -/
def drawByte (s : State) : Byte × State := (Config.rand s.draws, s.countDraw)

/-! ## The display grid (R260) -/

/-- `disp[k]` with `k = x + 64·y` (R33). -/
def Display.cell (d : Display) (k : Fin 2048) : Bool := (d[k.val / 64]'(by omega))[k.val % 64]'(by omega)

/-- `disp[k] <- not disp[k]`. -/
def Display.toggle (d : Display) (k : Fin 2048) : Display :=
  d.set (k.val / 64) ((d[k.val / 64]'(by omega)).set (k.val % 64) (!Display.cell d k) (by omega)) (by omega)

/-- The grid with every cell off. -/
def Display.off : Display := Vector.replicate 32 (Vector.replicate 64 false)

/-- `disp[k]` of a state. -/
def State.dispAt (s : State) (k : Fin 2048) : Bool := Display.cell s.disp k

/-- The 2048 cells in row-major order (R266). -/
def Display.cells (d : Display) : List Bool := (d.toList.map Vector.toList).flatten

/-! ## Fetch (R95) -/

/-- The word at two consecutive addresses, big-endian (R64). -/
def State.wordAt (s : State) (a : Nat) : Word := wordOfBytes (s.byteAt a) (s.byteAt (a + 1))

/-- Fetch and decode: both bytes are checked before either is read, `pc` moves on by 2, and an illegal word faults (R95, R104). -/
def fetchInstr (s : State) : Result (Instr × State) :=
  if s.pc.toNat + 1 ≥ 4096 then .fault (.fetchOOB s.pc)
  else match decodeWord (s.wordAt s.pc.toNat) with
    | some i => .next (i, s.setPc (s.pc + 2))
    | none => .fault (.unimplementedOpcode (s.wordAt s.pc.toNat) s.pc)

/-- A word placed where the next fetch reads it, in a machine that may fetch (log entry 10). -/
def placeWord (s : State) (w : Word) : State :=
  if s.pc.toNat + 1 ≥ 4096 then s
  else { s with mem := Memory.putBytes s.mem s.pc.toNat [highByte w, lowByte w], status := .running }

/-! ## Taking a fault -/

/-- Fault entry (R335, R336): the status becomes `Faulted(f)` and every other component is unspecified, so it holds free values
(log entry 4). Nothing is saved and no handler runs (R335, R338). -/
def enterFault (f : Fault) (s : State) : State :=
  let u := Config.leftover s.draws
  { V := u.V, pc := u.pc, I := u.I, sp := u.sp, stack := u.stack, DT := u.DT, ST := u.ST, key := u.key, disp := u.disp,
    mem := Memory.ofBytes u.byteAt 0 4096, status := .faulted f, draws := s.draws + 1 }

/-- The way back from a fault, the only one there is (R337, R338, R371): the whole state becomes that of `create`. The source of
free values is no part of the machine (R38), so its count goes on (log entry 2). -/
def restart (s : State) : State := { State.reset with draws := s.draws }

/-- `kind` of the fault record (R331). -/
inductive FaultKind where
  | outOfBounds
  | unimplementedOpcode
  deriving DecidableEq, Repr

/-- `sub` of the fault record (R331). -/
inductive FaultSub where
  | fetchOOB
  | loadOOB
  | stackOverflow
  | stackUnderflow
  | memOOB
  | keyOOB
  deriving DecidableEq, Repr

/-- The kind of a fault (R330, R331). -/
def faultKind : Fault → FaultKind
  | .fetchOOB _ => .outOfBounds
  | .loadOOB _ => .outOfBounds
  | .stackOverflow _ _ => .outOfBounds
  | .stackUnderflow _ => .outOfBounds
  | .memOOB _ _ => .outOfBounds
  | .keyOOB _ _ => .outOfBounds
  | .unimplementedOpcode _ _ => .unimplementedOpcode

/-- The sub-cause of a fault; kind 2 has none (R331). -/
def faultSub : Fault → Option FaultSub
  | .fetchOOB _ => some .fetchOOB
  | .loadOOB _ => some .loadOOB
  | .stackOverflow _ _ => some .stackOverflow
  | .stackUnderflow _ => some .stackUnderflow
  | .memOOB _ _ => some .memOOB
  | .keyOOB _ _ => some .keyOOB
  | .unimplementedOpcode _ _ => none

/-- The numeric code of a kind (R331). -/
def kindCode : FaultKind → Nat
  | .outOfBounds => 1
  | .unimplementedOpcode => 2

/-- The numeric code of a sub-cause, the digit after the point (R331). -/
def subCode : FaultSub → Nat
  | .fetchOOB => 1
  | .loadOOB => 2
  | .stackOverflow => 3
  | .stackUnderflow => 4
  | .memOOB => 5
  | .keyOOB => 6

/-- `info` of the fault record (R331). -/
def faultInfo : Fault → Nat
  | .fetchOOB p => p.toNat
  | .loadOOB n => n
  | .stackOverflow sp _ => sp.toNat
  | .stackUnderflow _ => 0
  | .memOOB a _ => a
  | .keyOOB k _ => k.toNat
  | .unimplementedOpcode w _ => w.toNat

/-- `at` of the fault record: the address of the instruction, absent for `load` (R331). -/
def faultSite : Fault → Option Word
  | .fetchOOB p => some p
  | .loadOOB _ => none
  | .stackOverflow _ p => some p
  | .stackUnderflow p => some p
  | .memOOB _ p => some p
  | .keyOOB _ p => some p
  | .unimplementedOpcode _ p => some p

end Sys2Proof.Machine
end

