-- ==== Sys2Proof/Machine/Operands.lean ====
section
/-! DEFINITION. The operand forms: the effective address (spec/42_index_memory.md R220), the glyph address, the decimal digits,
the computed jump target, the cell a sprite bit falls on, and the key scan. -/

namespace Sys2Proof.Machine

/-- The only addressing mode, `I + k`, a natural number that never wraps (R220). -/
def effAddr (s : State) (k : Nat) : Nat := s.I.toNat + k

/-- The address of a font glyph, `5 · v`, not masked (R223). -/
def glyphAddr (v : Byte) : Word := BitVec.ofNat 16 (5 * v.toNat)

/-- The target of BNNN, not masked to 12 bits (R142). -/
def indexedTarget (nnn : Word) (v : Byte) : Word := nnn + v.setWidth 16

/-- The sum of FX1E, wrapping at 16 bits (R222). -/
def indexSum (i : Word) (v : Byte) : Word := i + v.setWidth 16

/-- The hundreds, tens and ones digits of a byte (R224). -/
def decimalDigits (v : Byte) : List Byte :=
  [BitVec.ofNat 8 (v.toNat / 100), BitVec.ofNat 8 (v.toNat / 10 % 10), BitVec.ofNat 8 (v.toNat % 10)]

/-- The registers `V[0]` to `V[x]` (R94, R225). -/
def regRange (s : State) (x : Reg) : List Byte := s.V.toList.take (x.val + 1)

/-- The cell at a column and a row, each modulo the size of the grid (R262, R264). -/
def cellIndex (col row : Nat) : Fin 2048 := ⟨col % 64 + 64 * (row % 32), by omega⟩

/-- Bit `col` of a sprite byte: bit 7 is column 0, the leftmost (R263). -/
def spriteBit (b : Byte) (col : Nat) : Bool := b.getLsbD (7 - col)

/-- The lowest-numbered key that is pressed (R294). -/
def firstKey (s : State) : Option Nat := s.key.toList.findIdx? (fun pressed => pressed)

end Sys2Proof.Machine
end

