-- ==== Sys2Proof/Machine/Alu.lean ====
section
/-! DEFINITION. The ALU and register-file instructions (spec/41_alu.md): 6XNN, 7XNN, 8XY0 to 8XY7, 8XYE, CXNN. Operands are read
before any write, and the flag is written in the order of the table's rows (R171, decision D17). -/

namespace Sys2Proof.Machine

/-- `LD Vx, byte` (R172). -/
def execLdByte (x : Reg) (nn : Byte) (s : State) : Result State := .next (s.setV x nn)

/-- `ADD Vx, byte` (R173): wrapping, no flag. -/
def execAddByte (x : Reg) (nn : Byte) (s : State) : Result State := .next (s.setV x (s.getV x + nn))

/-- `LD Vx, Vy` (R174). -/
def execLdReg (x y : Reg) (s : State) : Result State := .next (s.setV x (s.getV y))

/-- `OR Vx, Vy` (R175): VF is not reset (decision D15). -/
def execOrReg (x y : Reg) (s : State) : Result State := .next (s.setV x (s.getV x ||| s.getV y))

/-- `AND Vx, Vy` (R176). -/
def execAndReg (x y : Reg) (s : State) : Result State := .next (s.setV x (s.getV x &&& s.getV y))

/-- `XOR Vx, Vy` (R177). -/
def execXorReg (x y : Reg) (s : State) : Result State := .next (s.setV x (s.getV x ^^^ s.getV y))

/-- The result, then the flag: with `x = 15` the flag wins (R171). -/
def resultThenFlag (x : Reg) (result flag : Byte) (s : State) : State := (s.setV x result).setV VF flag

/-- `ADD Vx, Vy` (R178). -/
def execAddReg (x y : Reg) (s : State) : Result State :=
  .next (resultThenFlag x (s.getV x + s.getV y) (carryFlag (s.getV x) (s.getV y)) s)

/-- `SUB Vx, Vy` (R179). -/
def execSubReg (x y : Reg) (s : State) : Result State :=
  .next (resultThenFlag x (s.getV x - s.getV y) (notBorrowFlag (s.getV x) (s.getV y)) s)

/-- `SUBN Vx, Vy` (R181). -/
def execSubnReg (x y : Reg) (s : State) : Result State :=
  .next (resultThenFlag x (s.getV y - s.getV x) (notBorrowFlag (s.getV y) (s.getV x)) s)

/-- `SHR Vx, Vy` (R180): the flag, then the shift of what `V[x]` then holds (R171). `y` is not read. -/
def execShr (x _y : Reg) (s : State) : Result State :=
  let s' := s.setV VF (lsbFlag (s.getV x))
  .next (s'.setV x (s'.getV x >>> 1))

/-- `SHL Vx, Vy` (R182): the flag, then the shift of what `V[x]` then holds (R171). `y` is not read. -/
def execShl (x _y : Reg) (s : State) : Result State :=
  let s' := s.setV VF (msbFlag (s.getV x))
  .next (s'.setV x (s'.getV x <<< 1))

/-- `RND Vx, byte` (R183): one byte is drawn. -/
def execRnd (x : Reg) (nn : Byte) (s : State) : Result State :=
  .next ((drawByte s).2.setV x ((drawByte s).1 &&& nn))

end Sys2Proof.Machine
end

