-- ==== Sys2Proof/Machine/Control.lean ====
section
/-! DEFINITION. Control transfer and the stack/call-return unit (spec/40_control.md): 0000, 00EE, 1NNN, 2NNN, 3XNN, 4XNN, 5XY0,
9XY0, BNNN. Each runs after the fetch, so `pc` holds `p + 2` on entry (R96). -/

namespace Sys2Proof.Machine

/-- `NOP` (R134). -/
def execNop (s : State) : Result State := .next s

/-- `RET` (R135): `pc <- pop()`. -/
def execRet (s : State) : Result State := andThen (pop s) fun r => .next (r.2.setPc r.1)

/-- `JP addr` (R136). -/
def execJp (nnn : Word) (s : State) : Result State := .next (s.setPc nnn)

/-- `CALL addr` (R137): `push(pc)`, then `pc <- NNN`. -/
def execCall (nnn : Word) (s : State) : Result State := andThen (push s.pc s) fun s' => .next (s'.setPc nnn)

/-- `SE Vx, byte` (R138). -/
def execSeByte (x : Reg) (nn : Byte) (s : State) : Result State := .next (skipIf (decide (s.getV x = nn)) s)

/-- `SNE Vx, byte` (R139). -/
def execSneByte (x : Reg) (nn : Byte) (s : State) : Result State := .next (skipIf (decide (s.getV x ≠ nn)) s)

/-- `SE Vx, Vy` (R140). -/
def execSeReg (x y : Reg) (s : State) : Result State := .next (skipIf (decide (s.getV x = s.getV y)) s)

/-- `SNE Vx, Vy` (R141). -/
def execSneReg (x y : Reg) (s : State) : Result State := .next (skipIf (decide (s.getV x ≠ s.getV y)) s)

/-- `JP V0, addr` (R142). -/
def execJpV0 (nnn : Word) (s : State) : Result State := .next (s.setPc (indexedTarget nnn (s.getV 0)))

end Sys2Proof.Machine
end

