-- ==== Sys2Proof/Machine/DisplayUnit.lean ====
section
/-! DEFINITION. The display buffer and the XOR grid updater (spec/43_display.md): 00E0, DXYN. -/

namespace Sys2Proof.Machine

/-- `CLS` (R261). -/
def execCls (s : State) : Result State := .next (s.setDisp Display.off)

/-- One sprite bit (R262): a set bit toggles its cell, and a cell that was on is a collision. The pair is the grid and whether
a collision has happened. -/
def drawBit (x0 y0 : Nat) (b : Byte) (row : Nat) (acc : Display × Bool) (col : Nat) : Display × Bool :=
  if spriteBit b col then
    (Display.toggle acc.1 (cellIndex (x0 + col) (y0 + row)), acc.2 || Display.cell acc.1 (cellIndex (x0 + col) (y0 + row)))
  else acc

/-- One sprite row, columns 0 to 7 (R262). -/
def drawRow (x0 y0 : Nat) (b : Byte) (row : Nat) (acc : Display × Bool) : Display × Bool :=
  (List.range 8).foldl (drawBit x0 y0 b row) acc

/-- `n` sprite rows from `row`, each read from memory before it is drawn (R262). -/
def drawRows (s : State) (x0 y0 : Nat) : Nat → Nat → Display × Bool → Result (Display × Bool)
  | 0, _, acc => .next acc
  | n + 1, row, acc => andThen (memRead s (effAddr s row)) fun b => drawRows s x0 y0 n (row + 1) (drawRow x0 y0 b row acc)

/-- `DRW Vx, Vy, n` (R262): the coordinates are sampled before any write and VF is written once, after the draw. -/
def execDrw (x y : Reg) (n : Nat) (s : State) : Result State :=
  andThen (drawRows s (s.getV x).toNat (s.getV y).toNat n 0 (s.disp, false)) fun r =>
    .next ((s.setDisp r.1).setV VF (collisionFlag r.2))

end Sys2Proof.Machine
end

