-- ==== Sys2Proof/Machine/IndexMemory.lean ====
section
/-! DEFINITION. The index register and the memory-indexed instructions (spec/42_index_memory.md): ANNN, FX1E, FX29, FX33, FX55,
FX65. No access changes `I` (R220, decision D14). -/

namespace Sys2Proof.Machine

/-- `LD I, addr` (R221). -/
def execLdI (nnn : Word) (s : State) : Result State := .next (s.setI nnn)

/-- `ADD I, Vx` (R222): wrapping at 16 bits, no flag. -/
def execAddIVx (x : Reg) (s : State) : Result State := .next (s.setI (indexSum s.I (s.getV x)))

/-- `LD F, Vx` (R223). -/
def execLdFVx (x : Reg) (s : State) : Result State := .next (s.setI (glyphAddr (s.getV x)))

/-- `LD B, Vx` (R224). -/
def execLdBVx (x : Reg) (s : State) : Result State := storeBytes (decimalDigits (s.getV x)) (effAddr s 0) s

/-- `LD [I], Vx` (R225). -/
def execStoreRegs (x : Reg) (s : State) : Result State := storeBytes (regRange s x) (effAddr s 0) s

/-- `LD Vx, [I]` (R226). -/
def execLoadRegs (x : Reg) (s : State) : Result State := loadBytes (x.val + 1) 0 (effAddr s 0) s

end Sys2Proof.Machine
end

