-- ==== Sys2Proof/Machine/KeysTimers.lean ====
section
/-! DEFINITION. The key and timer instructions (spec/44_keys_timers.md): EX9E, EXA1, FX07, FX0A, FX15, FX18. -/

namespace Sys2Proof.Machine

/-- `SKP Vx` (R291): the key index is the value of `V[x]`, not masked. -/
def execSkp (x : Reg) (s : State) : Result State :=
  andThen (readKey (s.getV x) s) fun pressed => .next (skipIf pressed s)

/-- `SKNP Vx` (R292). -/
def execSknp (x : Reg) (s : State) : Result State :=
  andThen (readKey (s.getV x) s) fun pressed => .next (skipIf (!pressed) s)

/-- `LD Vx, DT` (R293). -/
def execLdVxDT (x : Reg) (s : State) : Result State := .next (s.setV x s.DT)

/-- `LD Vx, K` (R294): with no key pressed, `pc` goes back to this instruction. -/
def execLdVxK (x : Reg) (s : State) : Result State :=
  match firstKey s with
  | none => .next (s.setPc (s.pc - 2))
  | some k => .next (s.setV x (BitVec.ofNat 8 k))

/-- `LD DT, Vx` (R295). -/
def execLdDTVx (x : Reg) (s : State) : Result State := .next (s.setDT (s.getV x))

/-- `LD ST, Vx` (R296). -/
def execLdSTVx (x : Reg) (s : State) : Result State := .next (s.setST (s.getV x))

end Sys2Proof.Machine
end

