-- ==== Sys2Proof/Machine/Step.lean ====
section
/-! DEFINITION. `tick` (spec/30_encoding.md R95): one step is one fetched, decoded and executed instruction. The other host
transactions are in Machine/Transactions.lean. -/

namespace Sys2Proof.Machine

/-- One `tick` (R95). A faulted machine refuses it (R337). -/
def step (s : State) : Host.Outcome State Fault Refusal :=
  match s.status with
  | .faulted f => .refused (.machineFaulted f)
  | .running => andThen (fetchInstr s) fun r => exec r.1 r.2

/-- `s` with the table's word placed where `step` fetches its next instruction (log entry 10). -/
def State.withFetchWord (s : State) (nbits w : Nat) : State := placeWord s (BitVec.ofNat 16 (w % 2 ^ nbits))

end Sys2Proof.Machine
end

