-- ==== Sys2Proof/Machine/Transactions.lean ====
section
/-! DEFINITION. The host transactions (spec/10_state.md R50 to R52): each is one atomic step of the machine, and they happen one
at a time in any order the host chooses (R51, decision D3; log entry 3). -/

namespace Sys2Proof.Machine

/-- A host transaction with its inputs (R50). -/
inductive Transaction where
  | create
  | reset
  | load (bytes : List Byte)
  | tick
  | tickTimers
  | getDisplay
  | keyPress (k : Nat) (pressed : Bool)
  | readSoundTimer
  deriving DecidableEq, Repr

/-- What the host is given (R50). -/
inductive Reply where
  | nothing
  | soundStop (edge : Bool)
  | display (cells : List Bool)
  | soundTimer (count : Byte)
  deriving DecidableEq, Repr

/-- How a transaction ends: completed, with its reply; or faulted, the fault being signalled to the host (R335); or refused, so
that no transition exists (R290, R337). `s` is the state the machine is left in. -/
inductive TransactionResult where
  | done (reply : Reply) (s : State)
  | faulted (f : Fault) (s : State)
  | refused (r : Refusal)
  deriving DecidableEq, Repr

/-- The end of a transaction that answers a state and no reply: a fault is taken (R335). -/
def settle (s : State) (r : Result State) : TransactionResult :=
  match r with
  | .next s' => .done .nothing s'
  | .fault f => .faulted f (enterFault f s)
  | .refused e => .refused e

/-- A faulted machine refuses the transaction (R337). -/
def whenRunning (s : State) (r : TransactionResult) : TransactionResult :=
  match s.status with
  | .running => r
  | .faulted f => .refused (.machineFaulted f)

/-- `load(bytes)` (R373): a copy to 0x200 and up, which changes nothing else and does not reset (decision D22). -/
def loadProgram (bytes : List Byte) (s : State) : Result State :=
  if 0x200 + bytes.length > 4096 then .fault (.loadOOB bytes.length)
  else .next { s with mem := Memory.putBytes s.mem 0x200 bytes }

/-- A count that goes down by one and stops at 0 (R31, R297). -/
def countDown (b : Byte) : Byte := if b.toNat > 0 then b - 1 else b

/-- The timers after `tick_timers` (R297). -/
def decrementTimers (s : State) : State := (s.setDT (countDown s.DT)).setST (countDown s.ST)

/-- The sound-stop edge (R298): `tick_timers` takes `ST` from 1 to 0. -/
def soundStops (s : State) : Bool := decide (s.ST = 1)

/-- `key_press(k, pressed)` (R290): an index outside 0 to 15 is refused (decision D23). -/
def pressKey (k : Nat) (pressed : Bool) (s : State) : Result State :=
  if h : k < 16 then .next (s.setKey ⟨k, h⟩ pressed) else .refused (.keyIndexOutOfRange k)

/-- One host transaction (R50). `create` (a new machine in place of this one) and `reset` are defined on every machine, the
others on a running one (R337). -/
def transact (t : Transaction) (s : State) : TransactionResult :=
  match t with
  | .create => .done .nothing (restart s)
  | .reset => .done .nothing (restart s)
  | .load bytes => whenRunning s (settle s (loadProgram bytes s))
  | .tick => settle s (step s)
  | .tickTimers => whenRunning s (.done (.soundStop (soundStops s)) (decrementTimers s))
  | .getDisplay => whenRunning s (.done (.display (Display.cells s.disp)) s)
  | .keyPress k pressed => whenRunning s (settle s (pressKey k pressed s))
  | .readSoundTimer => whenRunning s (.done (.soundTimer s.ST) s)

/-- The state a transaction leaves, where a transition exists. -/
def afterTransaction : TransactionResult → Option State
  | .done _ s => some s
  | .faulted _ s => some s
  | .refused _ => none

/-- A schedule of transactions, one after the other (R51): the state it ends in, or `none` where some transaction is refused. -/
def runSchedule : List Transaction → State → Option State
  | [], s => some s
  | t :: ts, s => (afterTransaction (transact t s)).bind (runSchedule ts)

end Sys2Proof.Machine
end

