-- ==== Sys2Proof/Safety.lean ====
section
/-! DEFINITION. The terms that statements are made in: the parts of the state and which of them a step keeps, what each
instruction may write (spec/10_state.md R24), and the states that runs reach (R28, R30, R36). -/

namespace Sys2Proof.Machine

/-! ## Parts of the state -/

/-- One part of the state of R21, down to one register, one stack entry, one key, one display cell, one byte of memory. -/
inductive Part where
  | V (r : Reg)
  | pc
  | I
  | sp
  | stack (k : Fin 16)
  | DT
  | ST
  | key (k : Fin 16)
  | disp (k : Fin 2048)
  | mem (a : Nat)
  | status
  | draws
  deriving DecidableEq, Repr

/-- The part is the same in both states. Memory and display are compared as they are read. -/
def SamePart (s t : State) : Part → Prop
  | .V r => t.getV r = s.getV r
  | .pc => t.pc = s.pc
  | .I => t.I = s.I
  | .sp => t.sp = s.sp
  | .stack k => t.stack[k] = s.stack[k]
  | .DT => t.DT = s.DT
  | .ST => t.ST = s.ST
  | .key k => t.key[k] = s.key[k]
  | .disp k => t.dispAt k = s.dispAt k
  | .mem a => t.byteAt a = s.byteAt a
  | .status => t.status = s.status
  | .draws => t.draws = s.draws

/-- From `s` to `t` nothing changes but the parts in `may`. -/
def ChangesOnly (may : Part → Prop) (s t : State) : Prop := ∀ p : Part, ¬ may p → SamePart s t p

/-- The instruction completes in a state of which `post` holds. -/
def Completes (i : Instr) (s : State) (post : State → Prop) : Prop := ∃ t : State, exec i s = .next t ∧ post t

/-! ## What each instruction may write (R24, R25) -/

/-- The sprite of DXYN covers the display cell: a set bit of one of its `n` rows falls on it (R262, R263, R264). The bit in
column `col` is bit `7 - col` of the row's byte. -/
def Covers (s : State) (x y : Reg) (n : Nat) (k : Fin 2048) : Prop :=
  ∃ row col : Nat, row < n ∧ col < 8 ∧ (s.byteAt (s.I.toNat + row)).toNat.testBit (7 - col) = true ∧
    k.val = ((s.getV x).toNat + col) % 64 + 64 * (((s.getV y).toNat + row) % 32)

/-- The column "writes" of R24's table, for the instruction executed in `s`. -/
def MayWrite (i : Instr) (s : State) (p : Part) : Prop :=
  match i with
  | .nop => False
  | .cls => ∃ k, p = .disp k
  | .ret => p = .sp ∨ p = .pc
  | .jp _ => p = .pc
  | .call _ => p = .sp ∨ p = .pc ∨ ∃ k : Fin 16, p = .stack k ∧ k.val = s.sp.toNat
  | .seByte _ _ => p = .pc
  | .sneByte _ _ => p = .pc
  | .seReg _ _ => p = .pc
  | .ldByte x _ => p = .V x
  | .addByte x _ => p = .V x
  | .ldReg x _ => p = .V x
  | .orReg x _ => p = .V x
  | .andReg x _ => p = .V x
  | .xorReg x _ => p = .V x
  | .addReg x _ => p = .V x ∨ p = .V VF
  | .subReg x _ => p = .V x ∨ p = .V VF
  | .shr x _ => p = .V x ∨ p = .V VF
  | .subnReg x _ => p = .V x ∨ p = .V VF
  | .shl x _ => p = .V x ∨ p = .V VF
  | .sneReg _ _ => p = .pc
  | .ldI _ => p = .I
  | .jpV0 _ => p = .pc
  | .rnd x _ => p = .V x ∨ p = .draws
  | .drw _ _ _ => p = .V VF ∨ ∃ k, p = .disp k
  | .skp _ => p = .pc
  | .sknp _ => p = .pc
  | .ldVxDT x => p = .V x
  | .ldVxK x => p = .V x ∨ p = .pc
  | .ldDTVx _ => p = .DT
  | .ldSTVx _ => p = .ST
  | .addIVx _ => p = .I
  | .ldFVx _ => p = .I
  | .ldBVx _ => ∃ k : Nat, k < 3 ∧ p = .mem (effAddr s k)
  | .storeRegs x => ∃ k : Nat, k ≤ x.val ∧ p = .mem (effAddr s k)
  | .loadRegs x => ∃ r : Reg, r.val ≤ x.val ∧ p = .V r

/-! ## Where each instruction leaves `pc` (R27) -/

/-- No key is pressed. -/
def NoKey (s : State) : Prop := ∀ k : Fin 16, s.key[k] = false

/-- The table of R27, for the instruction executed in `s`, where `pc` already holds `p + 2`. -/
def PcAfter (i : Instr) (s t : State) : Prop :=
  match i with
  | .ret => ∃ h : s.sp.toNat - 1 < 16, t.pc = s.stack[s.sp.toNat - 1]
  | .jp nnn => t.pc = nnn
  | .call nnn => t.pc = nnn
  | .seByte x nn => t.pc = if s.getV x = nn then s.pc + 2 else s.pc
  | .sneByte x nn => t.pc = if s.getV x = nn then s.pc else s.pc + 2
  | .seReg x y => t.pc = if s.getV x = s.getV y then s.pc + 2 else s.pc
  | .sneReg x y => t.pc = if s.getV x = s.getV y then s.pc else s.pc + 2
  | .skp x => ∃ h : (s.getV x).toNat < 16, t.pc = if s.key[(s.getV x).toNat] = true then s.pc + 2 else s.pc
  | .sknp x => ∃ h : (s.getV x).toNat < 16, t.pc = if s.key[(s.getV x).toNat] = true then s.pc else s.pc + 2
  | .jpV0 nnn => t.pc = nnn + (s.getV 0).setWidth 16
  | .ldVxK _ => (NoKey s → t.pc = s.pc - 2) ∧ (¬ NoKey s → t.pc = s.pc)
  | .nop | .cls | .ldByte _ _ | .addByte _ _ | .ldReg _ _ | .orReg _ _ | .andReg _ _ | .xorReg _ _ | .addReg _ _ | .subReg _ _
  | .shr _ _ | .subnReg _ _ | .shl _ _ | .ldI _ | .rnd _ _ | .drw _ _ _ | .ldVxDT _ | .ldDTVx _ | .ldSTVx _ | .addIVx _
  | .ldFVx _ | .ldBVx _ | .storeRegs _ | .loadRegs _ => t.pc = s.pc

/-! ## The states that runs reach -/

/-- What holds of every state that a running machine reaches: memory is in canonical form, `sp` is a legal depth (R36), every
stack entry is an address a CALL can push (R28), and `pc` is at most 0x10FE (R28). -/
def Inv (s : State) : Prop :=
  Memory.wf s.mem = true ∧ s.sp.toNat ≤ 16 ∧ (∀ k : Fin 16, s.stack[k].toNat ≤ 4096) ∧ s.pc.toNat ≤ 0x10FE

/-- What holds after every transaction: memory is in canonical form, and `Inv` while the machine runs. -/
def RunInv (s : State) : Prop := Memory.wf s.mem = true ∧ (s.status = .running → Inv s)

end Sys2Proof.Machine
end

