-- ==== Sys2Proof/Certificates/Slice0/Obligations.lean ====
section
/-! DEFINITION. The statements for the provers. Each docstring names the rules of spec/ that the statement formalises; where a
statement rests on a decision of the spec's own (92_eei_decisions.md) or on a choice of the model (a log entry), its title and
docstring say so. -/

open Sys2Proof Sys2Proof.Machine

/-- Formats R92, big-endian bytes R64, two bytes consumed R90. -/
def Obligations.DecodeOfEncodeIsTheInstruction : Prop :=
  ∀ (i : Instr) (rest : List Byte), i.wellFormed = true → decode (encodeBytes i ++ rest) = .ok (i, rest)

/-- R97, R105: each word is one instruction or illegal. -/
def Obligations.EncodeOfDecodeIsTheWord : Prop :=
  ∀ (w : Word) (i : Instr), decodeWord w = some i → i.wellFormed = true ∧ encode i = w

/-- R97, with the rows of spec/opcode_table.json as masks and patterns. -/
def Obligations.DecodeFollowsTheOpcodeTable : Prop :=
  (∀ (w : Word) (i : Instr), decodeWord w = some i → rowOf i ∈ opcodeRows ∧ rowMatches w (rowOf i) = true) ∧
  (∀ (w : Word) (r : OpcodeRow), r ∈ opcodeRows → rowMatches w r = true → ∃ i : Instr, decodeWord w = some i ∧ rowOf i = r) ∧
  (∀ w : Word, (∀ r ∈ opcodeRows, rowMatches w r = false) → decodeWord w = none) ∧
  (∀ (w : Word) (r r' : OpcodeRow), r ∈ opcodeRows → r' ∈ opcodeRows → rowMatches w r = true → rowMatches w r' = true → r = r')

/-- The layouts of R92 with the fixed bits of spec/opcode_table.json, written as numbers and not through the model's own fields. -/
def Obligations.FieldsStandWhereTheFormatsSay : Prop :=
  (decodeWord 0x0000 = some .nop ∧ decodeWord 0x00E0 = some .cls ∧ decodeWord 0x00EE = some .ret) ∧
  (∀ a : Nat, a < 0x1000 →
    decodeWord (BitVec.ofNat 16 (0x1000 + a)) = some (.jp (BitVec.ofNat 16 a)) ∧
    decodeWord (BitVec.ofNat 16 (0x2000 + a)) = some (.call (BitVec.ofNat 16 a)) ∧
    decodeWord (BitVec.ofNat 16 (0xA000 + a)) = some (.ldI (BitVec.ofNat 16 a)) ∧
    decodeWord (BitVec.ofNat 16 (0xB000 + a)) = some (.jpV0 (BitVec.ofNat 16 a))) ∧
  (∀ (x : Reg) (nn : Byte),
    decodeWord (BitVec.ofNat 16 (0x3000 + 0x100 * x.val + nn.toNat)) = some (.seByte x nn) ∧
    decodeWord (BitVec.ofNat 16 (0x4000 + 0x100 * x.val + nn.toNat)) = some (.sneByte x nn) ∧
    decodeWord (BitVec.ofNat 16 (0x6000 + 0x100 * x.val + nn.toNat)) = some (.ldByte x nn) ∧
    decodeWord (BitVec.ofNat 16 (0x7000 + 0x100 * x.val + nn.toNat)) = some (.addByte x nn) ∧
    decodeWord (BitVec.ofNat 16 (0xC000 + 0x100 * x.val + nn.toNat)) = some (.rnd x nn)) ∧
  (∀ x y : Reg,
    decodeWord (BitVec.ofNat 16 (0x5000 + 0x100 * x.val + 0x10 * y.val)) = some (.seReg x y) ∧
    decodeWord (BitVec.ofNat 16 (0x8000 + 0x100 * x.val + 0x10 * y.val)) = some (.ldReg x y) ∧
    decodeWord (BitVec.ofNat 16 (0x8001 + 0x100 * x.val + 0x10 * y.val)) = some (.orReg x y) ∧
    decodeWord (BitVec.ofNat 16 (0x8002 + 0x100 * x.val + 0x10 * y.val)) = some (.andReg x y) ∧
    decodeWord (BitVec.ofNat 16 (0x8003 + 0x100 * x.val + 0x10 * y.val)) = some (.xorReg x y) ∧
    decodeWord (BitVec.ofNat 16 (0x8004 + 0x100 * x.val + 0x10 * y.val)) = some (.addReg x y) ∧
    decodeWord (BitVec.ofNat 16 (0x8005 + 0x100 * x.val + 0x10 * y.val)) = some (.subReg x y) ∧
    decodeWord (BitVec.ofNat 16 (0x8006 + 0x100 * x.val + 0x10 * y.val)) = some (.shr x y) ∧
    decodeWord (BitVec.ofNat 16 (0x8007 + 0x100 * x.val + 0x10 * y.val)) = some (.subnReg x y) ∧
    decodeWord (BitVec.ofNat 16 (0x800E + 0x100 * x.val + 0x10 * y.val)) = some (.shl x y) ∧
    decodeWord (BitVec.ofNat 16 (0x9000 + 0x100 * x.val + 0x10 * y.val)) = some (.sneReg x y)) ∧
  (∀ (x y : Reg) (n : Nat), n < 0x10 →
    decodeWord (BitVec.ofNat 16 (0xD000 + 0x100 * x.val + 0x10 * y.val + n)) = some (.drw x y n)) ∧
  (∀ x : Reg,
    decodeWord (BitVec.ofNat 16 (0xE09E + 0x100 * x.val)) = some (.skp x) ∧
    decodeWord (BitVec.ofNat 16 (0xE0A1 + 0x100 * x.val)) = some (.sknp x) ∧
    decodeWord (BitVec.ofNat 16 (0xF007 + 0x100 * x.val)) = some (.ldVxDT x) ∧
    decodeWord (BitVec.ofNat 16 (0xF00A + 0x100 * x.val)) = some (.ldVxK x) ∧
    decodeWord (BitVec.ofNat 16 (0xF015 + 0x100 * x.val)) = some (.ldDTVx x) ∧
    decodeWord (BitVec.ofNat 16 (0xF018 + 0x100 * x.val)) = some (.ldSTVx x) ∧
    decodeWord (BitVec.ofNat 16 (0xF01E + 0x100 * x.val)) = some (.addIVx x) ∧
    decodeWord (BitVec.ofNat 16 (0xF029 + 0x100 * x.val)) = some (.ldFVx x) ∧
    decodeWord (BitVec.ofNat 16 (0xF033 + 0x100 * x.val)) = some (.ldBVx x) ∧
    decodeWord (BitVec.ofNat 16 (0xF055 + 0x100 * x.val)) = some (.storeRegs x) ∧
    decodeWord (BitVec.ofNat 16 (0xF065 + 0x100 * x.val)) = some (.loadRegs x))

/-- R103 whole, and which words R98 to R102 make legal. -/
def Obligations.LegalWordsOfEachMajorOpcode : Prop :=
  ∀ w : Word,
    (w.toNat / 0x1000 = 0x5 ∨ w.toNat / 0x1000 = 0x9 → ((decodeWord w).isSome = true ↔ w.toNat % 0x10 = 0)) ∧
    (w.toNat / 0x1000 = 0x0 → ((decodeWord w).isSome = true ↔ w.toNat ∈ [0x0000, 0x00E0, 0x00EE])) ∧
    (w.toNat / 0x1000 = 0x8 → ((decodeWord w).isSome = true ↔ w.toNat % 0x10 ∈ [0, 1, 2, 3, 4, 5, 6, 7, 0xE])) ∧
    (w.toNat / 0x1000 = 0xE → ((decodeWord w).isSome = true ↔ w.toNat % 0x100 ∈ [0x9E, 0xA1])) ∧
    (w.toNat / 0x1000 = 0xF → ((decodeWord w).isSome = true ↔
      w.toNat % 0x100 ∈ [0x07, 0x0A, 0x15, 0x18, 0x1E, 0x29, 0x33, 0x55, 0x65])) ∧
    (w.toNat / 0x1000 ∈ [0x1, 0x2, 0x3, 0x4, 0x6, 0x7, 0xA, 0xB, 0xC, 0xD] → (decodeWord w).isSome = true)

/-- A sanity statement on words of the vectors of spec/95_test_vectors.md. -/
def Obligations.FewWordsDecode : Prop :=
  decodeWord 0x1ABC = some (.jp 0xABC) ∧ decodeWord 0x3342 = some (.seByte 3 0x42) ∧
  decodeWord 0x8237 = some (.subnReg 2 3) ∧ decodeWord 0xA300 = some (.ldI 0x300) ∧ decodeWord 0xB300 = some (.jpV0 0x300) ∧
  decodeWord 0xC10F = some (.rnd 1 0x0F) ∧ decodeWord 0xD125 = some (.drw 1 2 5) ∧ decodeWord 0xE59E = some (.skp 5) ∧
  decodeWord 0xF00A = some (.ldVxK 0) ∧ decodeWord 0xFA33 = some (.ldBVx 10) ∧
  decodeWord 0x5011 = none ∧ decodeWord 0x8008 = none ∧ decodeWord 0x0FFF = none

/-- R95, R96 and R64; checking both bytes first is the spec's decision D10. -/
def Obligations.StepRunsTheDecodedInstruction : Prop :=
  ∀ (s : State) (i : Instr), s.status = .running → s.pc.toNat + 1 < 4096 →
    decodeWord (BitVec.ofNat 16 (256 * (s.byteAt s.pc.toNat).toNat + (s.byteAt (s.pc.toNat + 1)).toNat)) = some i →
    step s = exec i { s with pc := s.pc + 2 }

/-- R95, R66, U3; that both bytes are checked is decision D10. -/
def Obligations.FetchPastTheEndFaults : Prop :=
  ∀ s : State, s.status = .running → 4096 ≤ s.pc.toNat + 1 → step s = .fault (.fetchOOB s.pc)

/-- R104, R331; the record's fields are the spec's decision D4. -/
def Obligations.IllegalWordFaults : Prop :=
  ∀ (s : State) (w : Word), s.status = .running → s.pc.toNat + 1 < 4096 →
    w = BitVec.ofNat 16 (256 * (s.byteAt s.pc.toNat).toNat + (s.byteAt (s.pc.toNat + 1)).toNat) →
    decodeWord w = none → step s = .fault (.unimplementedOpcode w s.pc)

/-- R332 (marked derived there), the records of R331, and log entries 5 and 6. -/
def Obligations.OnlyTheListedInstructionsFault : Prop :=
  (∀ (i : Instr) (s : State) (f : Fault), exec i s = .fault f →
    (i = .ret ∧ s.sp = 0 ∧ f = .stackUnderflow (s.pc - 2)) ∨
    ((∃ nnn, i = .call nnn) ∧ 16 ≤ s.sp.toNat ∧ f = .stackOverflow s.sp (s.pc - 2)) ∨
    (((∃ x y n, i = .drw x y n) ∨ (∃ x, i = .ldBVx x) ∨ (∃ x, i = .storeRegs x) ∨ (∃ x, i = .loadRegs x)) ∧
      ∃ a : Nat, 4096 ≤ a ∧ f = .memOOB a (s.pc - 2)) ∨
    (∃ x, (i = .skp x ∨ i = .sknp x) ∧ 16 ≤ (s.getV x).toNat ∧ f = .keyOOB (s.getV x) (s.pc - 2))) ∧
  (∀ (i : Instr) (s : State) (r : Refusal), exec i s = .refused r →
    i = .ret ∧ 16 < s.sp.toNat ∧ r = .illegalStackPointer s.sp)

/-- R335; nothing else is saved, and every other component is unspecified (R336, log entry 4), so nothing is said of it. -/
def Obligations.FaultEntrySetsTheStatus : Prop :=
  (∀ (s : State) (f : Fault), step s = .fault f → ∃ u : State, transact .tick s = .faulted f u ∧ u.status = .faulted f) ∧
  (∀ (tr : Transaction) (s : State) (f : Fault) (u : State), transact tr s = .faulted f u →
    u.status = .faulted f ∧
      ((tr = .tick ∧ step s = .fault f) ∨ (∃ bytes, tr = .load bytes ∧ f = .loadOOB bytes.length)))

/-- R337, U12; decision D5. -/
def Obligations.FaultedMachineRefuses : Prop :=
  ∀ (s : State) (f : Fault), s.status = .faulted f →
    (∀ tr : Transaction, tr ≠ .create → tr ≠ .reset → transact tr s = .refused (.machineFaulted f)) ∧
    step s = .refused (.machineFaulted f)

/-- R40, R370. `FONT` is a free value (log entry 1) and stands for any 80 bytes. -/
def Obligations.ResetStateIsAsListed : Prop :=
  (∀ r : Reg, State.reset.getV r = 0) ∧ State.reset.pc = 0x200 ∧ State.reset.I = 0 ∧ State.reset.sp = 0 ∧
  (∀ k : Fin 16, State.reset.stack[k] = 0) ∧ State.reset.DT = 0 ∧ State.reset.ST = 0 ∧
  (∀ k : Fin 16, State.reset.key[k] = false) ∧ (∀ k : Fin 2048, State.reset.dispAt k = false) ∧
  (∀ a : Fin 80, State.reset.byteAt a.val = Config.font[a]) ∧
  (∀ a : Nat, 80 ≤ a → a < 4096 → State.reset.byteAt a = 0) ∧ State.reset.status = .running

/-- R370, R371, R372; that reset works on a faulted machine is decision D5, and what the counter does is log entry 2. -/
def Obligations.CreateAndResetGiveTheResetState : Prop :=
  ∀ s : State, transact .reset s = .done .nothing { State.reset with draws := s.draws } ∧
    transact .create s = .done .nothing { State.reset with draws := s.draws }

/-- R28, R36, R40. -/
def Obligations.InvHoldsAtReset : Prop :=
  Inv State.reset ∧ RunInv State.reset

/-- R28 and R36, over every state and not only over runs from reset. The canonical form of memory is log entry 8. -/
def Obligations.StepKeepsInv : Prop :=
  ∀ s t : State, Inv s → step s = .next t → Inv t

/-- R51 and decision D3 (any schedule), R28, R36. Log entries 3, 4 and 8. -/
def Obligations.SchedulesKeepRunInv : Prop :=
  ∀ (trs : List Transaction) (s t : State), RunInv s → runSchedule trs s = some t → RunInv t

/-- R134. -/
def Obligations.NopOnlyAdvancesPc : Prop :=
  (∀ s : State, exec .nop s = .next s) ∧
  (∀ s : State, s.status = .running → s.pc.toNat + 1 < 4096 → s.byteAt s.pc.toNat = 0 → s.byteAt (s.pc.toNat + 1) = 0 →
    step s = .next { s with pc := s.pc + 2 })

/-- R136. -/
def Obligations.JumpSetsPc : Prop :=
  ∀ (nnn : Word) (s : State), Completes (.jp nnn) s fun t => t.pc = nnn ∧ ChangesOnly (fun p => p = .pc) s t

/-- R142. -/
def Obligations.IndexedJumpAddsV0 : Prop :=
  ∀ (nnn : Word) (s : State), (Instr.jpV0 nnn).wellFormed = true → Completes (.jpV0 nnn) s fun t =>
    t.pc.toNat = nnn.toNat + (s.getV 0).toNat ∧ t.pc.toNat ≤ 0x10FE ∧ ChangesOnly (fun p => p = .pc) s t

/-- R131, R137; decision D12 for the stack-pointer convention. -/
def Obligations.CallPushesAndJumps : Prop :=
  ∀ (nnn : Word) (s : State) (h : s.sp.toNat < 16), Completes (.call nnn) s fun t =>
    t.pc = nnn ∧ t.sp.toNat = s.sp.toNat + 1 ∧ t.stack[s.sp.toNat] = s.pc ∧
    ChangesOnly (fun p => p = .pc ∨ p = .sp ∨ p = .stack ⟨s.sp.toNat, h⟩) s t

/-- R131, R137, U2. -/
def Obligations.CallOnFullStackFaults : Prop :=
  ∀ (nnn : Word) (s : State), 16 ≤ s.sp.toNat → exec (.call nnn) s = .fault (.stackOverflow s.sp (s.pc - 2))

/-- R132, R135, U1; decision D12. -/
def Obligations.ReturnPopsOrStops : Prop :=
  ∀ s : State,
    (∀ (_ : 1 ≤ s.sp.toNat) (_ : s.sp.toNat ≤ 16), Completes .ret s fun t =>
      t.pc = s.stack[s.sp.toNat - 1] ∧ t.sp.toNat = s.sp.toNat - 1 ∧ ChangesOnly (fun p => p = .pc ∨ p = .sp) s t) ∧
    (s.sp = 0 → exec .ret s = .fault (.stackUnderflow (s.pc - 2))) ∧
    (16 < s.sp.toNat → exec .ret s = .refused (.illegalStackPointer s.sp))

/-- R131, R132, R135, R137, R144. -/
def Obligations.ReturnUndoesCall : Prop :=
  ∀ (nnn : Word) (s t u : State), exec (.call nnn) s = .next t → u.sp = t.sp → u.stack = t.stack →
    Completes .ret u fun v => v.pc = s.pc ∧ v.sp = s.sp

/-- R138 to R141, with the skip of R133. -/
def Obligations.SkipsCompareAndSkip : Prop :=
  ∀ (x y : Reg) (nn : Byte) (s : State),
    (Completes (.seByte x nn) s fun t =>
      t.pc = (if s.getV x = nn then s.pc + 2 else s.pc) ∧ ChangesOnly (fun p => p = .pc) s t) ∧
    (Completes (.sneByte x nn) s fun t =>
      t.pc = (if s.getV x ≠ nn then s.pc + 2 else s.pc) ∧ ChangesOnly (fun p => p = .pc) s t) ∧
    (Completes (.seReg x y) s fun t =>
      t.pc = (if s.getV x = s.getV y then s.pc + 2 else s.pc) ∧ ChangesOnly (fun p => p = .pc) s t) ∧
    (Completes (.sneReg x y) s fun t =>
      t.pc = (if s.getV x ≠ s.getV y then s.pc + 2 else s.pc) ∧ ChangesOnly (fun p => p = .pc) s t)

/-- The table of R27, where `p + 2` is the `pc` that exec starts with. That the popped entry is `stack[sp - 1]` is decision D12; that
RET completes only with `sp` at most 16 is the model's choice (log entry 5); that SKP and SKNP complete only with a key index
below 16 is decision D13. -/
def Obligations.FinalPcOfEachInstruction : Prop :=
  ∀ (i : Instr) (s t : State), exec i s = .next t → PcAfter i s t

/-- R172, R174. -/
def Obligations.LoadsSetTheRegister : Prop :=
  ∀ (x y : Reg) (nn : Byte) (s : State),
    (Completes (.ldByte x nn) s fun t => t.getV x = nn ∧ ChangesOnly (fun p => p = .V x) s t) ∧
    (Completes (.ldReg x y) s fun t => t.getV x = s.getV y ∧ ChangesOnly (fun p => p = .V x) s t)

/-- R175 to R177; that VF is not reset is decision D15. -/
def Obligations.LogicKeepsVF : Prop :=
  ∀ (x y : Reg) (s : State),
    (Completes (.orReg x y) s fun t => ChangesOnly (fun p => p = .V x) s t ∧
      ∀ k : Nat, (t.getV x).toNat.testBit k = ((s.getV x).toNat.testBit k || (s.getV y).toNat.testBit k)) ∧
    (Completes (.andReg x y) s fun t => ChangesOnly (fun p => p = .V x) s t ∧
      ∀ k : Nat, (t.getV x).toNat.testBit k = ((s.getV x).toNat.testBit k && (s.getV y).toNat.testBit k)) ∧
    (Completes (.xorReg x y) s fun t => ChangesOnly (fun p => p = .V x) s t ∧
      ∀ k : Nat, (t.getV x).toNat.testBit k = ((s.getV x).toNat.testBit k ^^ (s.getV y).toNat.testBit k))

/-- R173. -/
def Obligations.AddImmediateWrapsWithoutFlag : Prop :=
  ∀ (x : Reg) (nn : Byte) (s : State), Completes (.addByte x nn) s fun t =>
    (t.getV x).toNat = ((s.getV x).toNat + nn.toNat) % 256 ∧ ChangesOnly (fun p => p = .V x) s t

/-- R178, with its corner cases; that with X = 15 the carry wins is R171, decision D17. -/
def Obligations.AddSetsSumThenCarry : Prop :=
  ∀ (x y : Reg) (s : State), Completes (.addReg x y) s fun t =>
    (t.getV VF).toNat = (if (s.getV x).toNat + (s.getV y).toNat > 255 then 1 else 0) ∧
    (x ≠ VF → (t.getV x).toNat = ((s.getV x).toNat + (s.getV y).toNat) % 256) ∧
    ChangesOnly (fun p => p = .V x ∨ p = .V VF) s t

/-- R179, R181; the meaning of a borrow is the spec's G3, the order of the writes decision D17. -/
def Obligations.SubtractionsSetDifferenceThenNotBorrow : Prop :=
  ∀ (x y : Reg) (s : State),
    (Completes (.subReg x y) s fun t =>
      (t.getV VF).toNat = (if (s.getV x).toNat < (s.getV y).toNat then 0 else 1) ∧
      (x ≠ VF → (t.getV x).toNat = ((s.getV x).toNat + 256 - (s.getV y).toNat) % 256) ∧
      ChangesOnly (fun p => p = .V x ∨ p = .V VF) s t) ∧
    (Completes (.subnReg x y) s fun t =>
      (t.getV VF).toNat = (if (s.getV y).toNat < (s.getV x).toNat then 0 else 1) ∧
      (x ≠ VF → (t.getV x).toNat = ((s.getV y).toNat + 256 - (s.getV x).toNat) % 256) ∧
      ChangesOnly (fun p => p = .V x ∨ p = .V VF) s t)

/-- R180, R182, R171; the value of the flag is decision D16, the order of the writes D17. -/
def Obligations.ShiftsSetFlagThenShift : Prop :=
  ∀ (x y : Reg) (s : State),
    (Completes (.shr x y) s fun t =>
      (x ≠ VF → (t.getV x).toNat = (s.getV x).toNat / 2 ∧ (t.getV VF).toNat = (s.getV x).toNat % 2) ∧
      (x = VF → t.getV VF = 0) ∧ ChangesOnly (fun p => p = .V x ∨ p = .V VF) s t) ∧
    (Completes (.shl x y) s fun t =>
      (x ≠ VF → (t.getV x).toNat = 2 * (s.getV x).toNat % 256 ∧ (t.getV VF).toNat = (s.getV x).toNat / 128) ∧
      (x = VF → (t.getV VF).toNat = 2 * ((s.getV VF).toNat / 128)) ∧
      ChangesOnly (fun p => p = .V x ∨ p = .V VF) s t)

/-- R183, decision D7. `Config.rand` has no value that a proof can use. -/
def Obligations.RandomIsADrawAndTheMask : Prop :=
  ∀ (x : Reg) (nn : Byte) (s : State), Completes (.rnd x nn) s fun t =>
    t.getV x = Config.rand s.draws &&& nn ∧ (nn = 0 → t.getV x = 0) ∧ t.draws = s.draws + 1 ∧
    ChangesOnly (fun p => p = .V x ∨ p = .draws) s t

/-- R221, R223. -/
def Obligations.IndexLoadsSetI : Prop :=
  ∀ (nnn : Word) (x : Reg) (s : State),
    (Completes (.ldI nnn) s fun t => t.I = nnn ∧ ChangesOnly (fun p => p = .I) s t) ∧
    (Completes (.ldFVx x) s fun t => t.I.toNat = 5 * (s.getV x).toNat ∧ ChangesOnly (fun p => p = .I) s t)

/-- R222; that VF is not written is decision D15. -/
def Obligations.IndexAddWrapsWithoutFlag : Prop :=
  ∀ (x : Reg) (s : State), Completes (.addIVx x) s fun t =>
    t.I.toNat = (s.I.toNat + (s.getV x).toNat) % 65536 ∧ ChangesOnly (fun p => p = .I) s t

/-- R224, R220; that an address past memory faults is decision D10, that I stays D14. -/
def Obligations.DecimalDigitsAreStored : Prop :=
  ∀ (x : Reg) (s : State), Memory.wf s.mem = true →
    (s.I.toNat ≤ 4093 → Completes (.ldBVx x) s fun t =>
      (t.byteAt (effAddr s 0)).toNat = (s.getV x).toNat / 100 ∧
      (t.byteAt (effAddr s 1)).toNat = (s.getV x).toNat / 10 % 10 ∧
      (t.byteAt (effAddr s 2)).toNat = (s.getV x).toNat % 10 ∧
      ChangesOnly (fun p => ∃ k : Nat, k < 3 ∧ p = .mem (effAddr s k)) s t) ∧
    (4094 ≤ s.I.toNat → exec (.ldBVx x) s = .fault (.memOOB (max (effAddr s 0) 4096) (s.pc - 2)))

/-- R225, R220; decisions D10 and D14. -/
def Obligations.RegistersAreStored : Prop :=
  ∀ (x : Reg) (s : State), Memory.wf s.mem = true →
    (s.I.toNat + x.val < 4096 → Completes (.storeRegs x) s fun t =>
      (∀ r : Reg, r.val ≤ x.val → t.byteAt (effAddr s r.val) = s.getV r) ∧
      ChangesOnly (fun p => ∃ k : Nat, k ≤ x.val ∧ p = .mem (effAddr s k)) s t) ∧
    (4096 ≤ s.I.toNat + x.val → exec (.storeRegs x) s = .fault (.memOOB (max (effAddr s 0) 4096) (s.pc - 2)))

/-- R226, R220; decisions D10 and D14. -/
def Obligations.RegistersAreLoaded : Prop :=
  ∀ (x : Reg) (s : State),
    (s.I.toNat + x.val < 4096 → Completes (.loadRegs x) s fun t =>
      (∀ r : Reg, r.val ≤ x.val → t.getV r = s.byteAt (effAddr s r.val)) ∧
      ChangesOnly (fun p => ∃ r : Reg, r.val ≤ x.val ∧ p = .V r) s t) ∧
    (4096 ≤ s.I.toNat + x.val → exec (.loadRegs x) s = .fault (.memOOB (max (effAddr s 0) 4096) (s.pc - 2)))

/-- R225, R226 and R71; that I is unchanged is decision D14. -/
def Obligations.LoadRestoresStoredRegisters : Prop :=
  ∀ (x : Reg) (s t : State) (v : Vector Byte 16), Memory.wf s.mem = true → exec (.storeRegs x) s = .next t →
    Completes (.loadRegs x) { t with V := v } fun u =>
      ∀ r : Reg, (r.val ≤ x.val → u.getV r = s.getV r) ∧ (x.val < r.val → u.getV r = v[r])

/-- R261. -/
def Obligations.ClearTurnsEveryCellOff : Prop :=
  ∀ s : State, Completes .cls s fun t =>
    (∀ k : Fin 2048, t.dispAt k = false) ∧ ChangesOnly (fun p => ∃ k, p = .disp k) s t

/-- R262, R264, R265; the bit order of R263 is decision D19, the sampling of the coordinates D18. -/
def Obligations.DrawTogglesTheCoveredCells : Prop :=
  ∀ (x y : Reg) (n : Nat) (s : State), (Instr.drw x y n).wellFormed = true → (n = 0 ∨ s.I.toNat + n ≤ 4096) →
    Completes (.drw x y n) s fun t =>
      (∀ k : Fin 2048, (Covers s x y n k → t.dispAt k = !s.dispAt k) ∧ (¬ Covers s x y n k → t.dispAt k = s.dispAt k)) ∧
      ((∃ k, Covers s x y n k ∧ s.dispAt k = true) → t.getV VF = 1) ∧
      ((¬ ∃ k, Covers s x y n k ∧ s.dispAt k = true) → t.getV VF = 0) ∧
      ChangesOnly (fun p => p = .V VF ∨ ∃ k, Covers s x y n k ∧ p = .disp k) s t

/-- R262, R333; decision D10. -/
def Obligations.DrawPastMemoryFaults : Prop :=
  ∀ (x y : Reg) (n : Nat) (s : State), 1 ≤ n → 4096 < s.I.toNat + n →
    exec (.drw x y n) s = .fault (.memOOB (max (effAddr s 0) 4096) (s.pc - 2))

/-- R262 (the XOR rule), R265 and the source's property E7, for any sprite and display. -/
def Obligations.DrawingTwiceRestoresTheDisplay : Prop :=
  ∀ (x y : Reg) (n : Nat) (s t : State), (Instr.drw x y n).wellFormed = true → x ≠ VF → y ≠ VF →
    exec (.drw x y n) s = .next t → Completes (.drw x y n) t fun u =>
      (∀ k : Fin 2048, u.dispAt k = s.dispAt k) ∧ (u.getV VF = 1 ↔ ∃ k, Covers s x y n k ∧ s.dispAt k = false)

/-- R266. -/
def Obligations.GetDisplayReadsTheCells : Prop :=
  ∀ s : State, s.status = .running → ∃ cells : List Bool, transact .getDisplay s = .done (.display cells) s ∧
    cells.length = 2048 ∧ ∀ k : Fin 2048, cells[k.val]? = some (s.dispAt k)

/-- R291, R292, R133; that an index above 15 faults is decision D13. -/
def Obligations.KeySkipsReadTheirKey : Prop :=
  ∀ (x : Reg) (s : State),
    (∀ _ : (s.getV x).toNat < 16,
      (Completes (.skp x) s fun t =>
        t.pc = (if s.key[(s.getV x).toNat] = true then s.pc + 2 else s.pc) ∧ ChangesOnly (fun p => p = .pc) s t) ∧
      (Completes (.sknp x) s fun t =>
        t.pc = (if s.key[(s.getV x).toNat] = true then s.pc else s.pc + 2) ∧ ChangesOnly (fun p => p = .pc) s t)) ∧
    (16 ≤ (s.getV x).toNat →
      exec (.skp x) s = .fault (.keyOOB (s.getV x) (s.pc - 2)) ∧ exec (.sknp x) s = .fault (.keyOOB (s.getV x) (s.pc - 2)))

/-- R293, R295 and the effect of R296. -/
def Obligations.TimerRegistersAreCopied : Prop :=
  ∀ (x : Reg) (s : State),
    (Completes (.ldVxDT x) s fun t => t.getV x = s.DT ∧ ChangesOnly (fun p => p = .V x) s t) ∧
    (Completes (.ldDTVx x) s fun t => t.DT = s.getV x ∧ ChangesOnly (fun p => p = .DT) s t) ∧
    (Completes (.ldSTVx x) s fun t => t.ST = s.getV x ∧ ChangesOnly (fun p => p = .ST) s t)

/-- R294; decision D20. -/
def Obligations.KeyWaitTakesTheLowestKeyOrRewinds : Prop :=
  ∀ (x : Reg) (s : State),
    (NoKey s → Completes (.ldVxK x) s fun t => t.pc = s.pc - 2 ∧ ChangesOnly (fun p => p = .pc) s t) ∧
    (∀ k : Fin 16, s.key[k] = true → (∀ j : Fin 16, j < k → s.key[j] = false) →
      Completes (.ldVxK x) s fun t => (t.getV x).toNat = k.val ∧ ChangesOnly (fun p => p = .V x) s t)

/-- R294, R379, U16. -/
def Obligations.KeyWaitTickChangesNothing : Prop :=
  ∀ (x : Reg) (s : State), s.status = .running → s.pc.toNat + 1 < 4096 →
    decodeWord (BitVec.ofNat 16 (256 * (s.byteAt s.pc.toNat).toNat + (s.byteAt (s.pc.toNat + 1)).toNat)) = some (.ldVxK x) →
    NoKey s → step s = .next s

/-- R297, R298, R299; the edge and the read are decision D21. -/
def Obligations.TickTimersCountsDown : Prop :=
  ∀ s : State, s.status = .running →
    (∃ t : State, transact .tickTimers s = .done (.soundStop (decide (s.ST.toNat = 1))) t ∧
      t.DT.toNat = s.DT.toNat - 1 ∧ t.ST.toNat = s.ST.toNat - 1 ∧ ChangesOnly (fun p => p = .DT ∨ p = .ST) s t) ∧
    transact .readSoundTimer s = .done (.soundTimer s.ST) s

/-- R290; the refusal is decision D23. -/
def Obligations.KeyPressSetsOneFlag : Prop :=
  ∀ (k : Nat) (pressed : Bool) (s : State), s.status = .running →
    (∀ h : k < 16, ∃ t : State, transact (.keyPress k pressed) s = .done .nothing t ∧ t.key[k] = pressed ∧
      ChangesOnly (fun p => p = .key ⟨k, h⟩) s t) ∧
    (16 ≤ k → transact (.keyPress k pressed) s = .refused (.keyIndexOutOfRange k))

/-- R373; that it may be called at any time the machine runs is decision D22. -/
def Obligations.LoadCopiesTheProgram : Prop :=
  ∀ (bytes : List Byte) (s : State), s.status = .running → Memory.wf s.mem = true →
    (bytes.length ≤ 3584 → ∃ t : State, transact (.load bytes) s = .done .nothing t ∧
      (∀ i : Fin bytes.length, t.byteAt (0x200 + i.val) = bytes[i]) ∧
      ChangesOnly (fun p => ∃ i : Nat, i < bytes.length ∧ p = .mem (0x200 + i)) s t) ∧
    (3584 < bytes.length → ∃ u : State, transact (.load bytes) s = .faulted (.loadOOB bytes.length) u)

/-- The column "writes" of R24 (marked derived there), R25, R29, R30, R33. -/
def Obligations.InstructionsWriteOnlyWhatTheTableGives : Prop :=
  ∀ (i : Instr) (s t : State), Memory.wf s.mem = true → exec i s = .next t → ChangesOnly (MayWrite i s) s t

/-- R31. The two runs of CXNN that the second and third clause compare draw one and the same byte (log entry 2). -/
def Obligations.TimersAreSeparateCounters : Prop :=
  (∀ (i : Instr) (s t : State), exec i s = .next t →
    (t.DT = s.DT ∨ ∃ x, i = .ldDTVx x ∧ t.DT = s.getV x) ∧ (t.ST = s.ST ∨ ∃ x, i = .ldSTVx x ∧ t.ST = s.getV x)) ∧
  (∀ (i : Instr) (s t : State) (b : Byte), exec i s = .next t →
    Completes i { s with ST := b } fun t' => ∀ p : Part, p ≠ .ST → SamePart t t' p) ∧
  (∀ (i : Instr) (s t : State) (b : Byte), (∀ x, i ≠ .ldVxDT x) → exec i s = .next t →
    Completes i { s with DT := b } fun t' => ∀ p : Part, p ≠ .DT → SamePart t t' p) ∧
  (∀ s : State, s.status = .running → ∃ (r : Reply) (t : State), transact .tickTimers s = .done r t ∧
    t.DT.toNat = s.DT.toNat - 1 ∧ t.ST.toNat = s.ST.toNat - 1) ∧
  (∀ (tr : Transaction) (s t : State) (r : Reply), transact tr s = .done r t →
    tr = .create ∨ tr = .reset ∨ tr = .tick ∨ tr = .tickTimers ∨ (t.DT = s.DT ∧ t.ST = s.ST))

/-- R32. The two runs of CXNN that the third clause compares draw one and the same byte (log entry 2). -/
def Obligations.KeysAreSetByTheHostOnly : Prop :=
  (∀ (i : Instr) (s t : State), exec i s = .next t → t.key = s.key) ∧
  (∀ (tr : Transaction) (s t : State) (r : Reply), transact tr s = .done r t →
    tr = .create ∨ tr = .reset ∨ (∃ k pressed, tr = .keyPress k pressed) ∨ t.key = s.key) ∧
  (∀ (i : Instr) (s t : State) (keys : Vector Bool 16), (∀ x, i ≠ .skp x ∧ i ≠ .sknp x ∧ i ≠ .ldVxK x) →
    exec i s = .next t →
    Completes i { s with key := keys } fun t' => ∀ p : Part, (∀ k, p ≠ .key k) → SamePart t t' p)

/-- R73 (marked derived there), R64, R65, R225. -/
def Obligations.StoreOverTheNextInstructionIsFetched : Prop :=
  ∀ (x j j' : Reg) (s t : State) (i : Instr), Memory.wf s.mem = true → s.status = .running →
    exec (.storeRegs x) s = .next t → j'.val = j.val + 1 → j'.val ≤ x.val → s.pc.toNat = s.I.toNat + j.val →
    decodeWord (BitVec.ofNat 16 (256 * (s.getV j).toNat + (s.getV j').toNat)) = some i →
    step t = exec i { t with pc := t.pc + 2 }

/-- R382, R136. -/
def Obligations.JumpToSelfIdles : Prop :=
  ∀ s : State, s.status = .running → s.pc.toNat + 1 < 4096 →
    256 * (s.byteAt s.pc.toNat).toNat + (s.byteAt (s.pc.toNat + 1)).toNat = 0x1000 + s.pc.toNat → step s = .next s
end

