-- ==== Sys2Proof/Laws/Decode.lean ====
section
/-! SUPPORT. The fields of a word and the words of the formats, as numbers. -/

namespace Sys2Proof

theorem fieldD1_toNat (w : Word) : (fieldD1 w).toNat = w.toNat / 4096 := by
  simp [fieldD1, Nat.shiftRight_eq_div_pow]; omega

theorem fieldX_val (w : Word) : (fieldX w).val = w.toNat / 256 % 16 := by
  simp [fieldX, fieldD2, Nat.shiftRight_eq_div_pow]

theorem fieldY_val (w : Word) : (fieldY w).val = w.toNat / 16 % 16 := by
  simp [fieldY, fieldD3, Nat.shiftRight_eq_div_pow]

theorem fieldD4_toNat (w : Word) : (fieldD4 w).toNat = w.toNat % 16 := by simp [fieldD4]

theorem fieldN_eq (w : Word) : fieldN w = w.toNat % 16 := fieldD4_toNat w

theorem fieldNN_toNat (w : Word) : (fieldNN w).toNat = w.toNat % 256 := by simp [fieldNN]

theorem fieldNNN_toNat (w : Word) : (fieldNNN w).toNat = w.toNat % 4096 := by
  simp [fieldNNN]; omega

theorem append_toNat {m n : Nat} (a : BitVec m) (b : BitVec n) : (a ++ b).toNat = a.toNat * 2 ^ n + b.toNat := by
  rw [BitVec.toNat_append, ← Nat.shiftLeft_add_eq_or_of_lt b.isLt, Nat.shiftLeft_eq]

theorem regField_toNat (x : Reg) : (regField x).toNat = x.val := rfl

theorem wordOfBytes_toNat (hi lo : Byte) : (wordOfBytes hi lo).toNat = 256 * hi.toNat + lo.toNat := by
  rw [show (wordOfBytes hi lo).toNat = _ from append_toNat hi lo]; omega

theorem highByte_toNat (w : Word) : (highByte w).toNat = w.toNat / 256 := by
  simp [highByte, Nat.shiftRight_eq_div_pow]; omega

theorem lowByte_toNat (w : Word) : (lowByte w).toNat = w.toNat % 256 := by simp [lowByte]

/-- The bytes of a word make the word. -/
theorem wordOfBytes_bytes (w : Word) : wordOfBytes (highByte w) (lowByte w) = w := by
  apply BitVec.eq_of_toNat_eq
  rw [wordOfBytes_toNat, highByte_toNat, lowByte_toNat]
  omega

theorem formatNNN_toNat (d1 : Nibble) (nnn : Word) :
    (formatNNN d1 nnn).toNat = d1.toNat * 4096 + nnn.toNat % 4096 := by
  rw [show (formatNNN d1 nnn).toNat = _ from append_toNat d1 (nnn.setWidth 12)]
  simp

theorem formatXNN_toNat (d1 : Nibble) (x : Reg) (nn : Byte) :
    (formatXNN d1 x nn).toNat = d1.toNat * 4096 + x.val * 256 + nn.toNat := by
  rw [show (formatXNN d1 x nn).toNat = _ from append_toNat (d1 ++ regField x) nn, append_toNat, regField_toNat]
  omega

theorem formatXYN_toNat (d1 : Nibble) (x y : Reg) (n : Nibble) :
    (formatXYN d1 x y n).toNat = d1.toNat * 4096 + x.val * 256 + y.val * 16 + n.toNat := by
  rw [show (formatXYN d1 x y n).toNat = _ from append_toNat (d1 ++ regField x ++ regField y) n, append_toNat,
    append_toNat, regField_toNat, regField_toNat]
  omega

end Sys2Proof
end

