-- ==== Sys2Proof/Laws/Memory.lean ====
section
/-! SUPPORT. The laws of memory: every operation keeps the canonical form, a byte read after a write is the byte written, and
every other byte stays. -/

namespace Sys2Proof.Machine

theorem Memory.wfFrom_mono {m : Memory} {lo lo' : Nat} (h : Memory.wfFrom lo m = true) (hle : lo' ≤ lo) :
    Memory.wfFrom lo' m = true := by
  cases m with
  | nil => rfl
  | cons c m =>
    simp only [Memory.wfFrom, Bool.and_eq_true, decide_eq_true_eq] at h ⊢
    exact ⟨⟨⟨by omega, h.1.1.2⟩, h.1.2⟩, h.2⟩

/-- Below the first address a canonical list lists nothing. -/
theorem Memory.listed_below {m : Memory} {lo a : Nat} (h : Memory.wfFrom lo m = true) (ha : a < lo) :
    Memory.listed m a = none := by
  induction m generalizing lo with
  | nil => rfl
  | cons c m ih =>
    simp only [Memory.wfFrom, Bool.and_eq_true, decide_eq_true_eq] at h
    rw [Memory.listed, if_neg (by omega)]
    exact ih h.2 (by omega)

theorem Memory.wfFrom_cell {m : Memory} {lo a : Nat} {b : Byte} (h : Memory.wfFrom (a + 1) m = true) (hlo : lo ≤ a)
    (ha : a < 4096) : Memory.wfFrom lo (Memory.cell a b m) = true := by
  unfold Memory.cell
  split
  · exact Memory.wfFrom_mono h (by omega)
  · simp [Memory.wfFrom, *]

theorem Memory.byte_cell {m : Memory} {a : Nat} {b : Byte} (h : Memory.wfFrom (a + 1) m = true) (j : Nat) :
    Memory.byte (Memory.cell a b m) j = if j = a then b else Memory.byte m j := by
  unfold Memory.cell Memory.byte
  by_cases hj : j = a
  · subst hj
    split
    · simp [Memory.listed_below h (Nat.lt_succ_self _), *]
    · simp [Memory.listed]
  · split
    · simp [*]
    · simp [Memory.listed, *, Ne.symm hj]

/-- A write keeps the canonical form. -/
theorem Memory.wfFrom_put {m : Memory} {lo a : Nat} {b : Byte} (h : Memory.wfFrom lo m = true) (hlo : lo ≤ a)
    (ha : a < 4096) : Memory.wfFrom lo (Memory.put m a b) = true := by
  induction m generalizing lo with
  | nil => exact Memory.wfFrom_cell rfl hlo ha
  | cons c m ih =>
    have h' := h
    simp only [Memory.wfFrom, Bool.and_eq_true, decide_eq_true_eq] at h
    rw [Memory.put]
    split
    · refine Memory.wfFrom_cell ?_ hlo ha
      simp only [Memory.wfFrom, Bool.and_eq_true, decide_eq_true_eq]
      exact ⟨⟨⟨by omega, h.1.1.2⟩, h.1.2⟩, h.2⟩
    · split
      · exact Memory.wfFrom_cell (by simp [*]) hlo ha
      · simp only [Memory.wfFrom, Bool.and_eq_true, decide_eq_true_eq]
        exact ⟨h.1, ih h.2 (by omega)⟩

theorem Memory.byte_put_from {m : Memory} {lo a : Nat} {b : Byte} (h : Memory.wfFrom lo m = true) (j : Nat) :
    Memory.byte (Memory.put m a b) j = if j = a then b else Memory.byte m j := by
  induction m generalizing lo with
  | nil => exact Memory.byte_cell rfl j
  | cons c m ih =>
    have h' := h
    simp only [Memory.wfFrom, Bool.and_eq_true, decide_eq_true_eq] at h
    rw [Memory.put]
    split
    · refine Memory.byte_cell ?_ j
      simp only [Memory.wfFrom, Bool.and_eq_true, decide_eq_true_eq]
      exact ⟨⟨⟨by omega, h.1.1.2⟩, h.1.2⟩, h.2⟩
    · split
      · rename_i hk
        rw [Memory.byte_cell (by simpa [hk] using h.2)]
        by_cases hj : j = a
        · simp [hj]
        · simp [hj, Memory.byte, Memory.listed, show c.1 ≠ j by omega]
      · by_cases hj : c.1 = j
        · simp [Memory.byte, Memory.listed, hj, show j ≠ a by omega]
        · have := ih h.2
          simp only [Memory.byte, Memory.listed, if_neg hj] at this ⊢
          exact this

/-- A write keeps the canonical form. -/
theorem Memory.wf_put {m : Memory} {a : Nat} {b : Byte} (h : Memory.wf m = true) (ha : a < 4096) :
    Memory.wf (Memory.put m a b) = true := Memory.wfFrom_put h (Nat.zero_le _) ha

/-- Reading after a write: the byte written at its address, and every other byte as before. -/
theorem Memory.byte_put {m : Memory} {a : Nat} {b : Byte} (h : Memory.wf m = true) (j : Nat) :
    Memory.byte (Memory.put m a b) j = if j = a then b else Memory.byte m j := Memory.byte_put_from h j

theorem Memory.wf_putBytes {m : Memory} {a : Nat} {bs : List Byte} (h : Memory.wf m = true) (ha : a + bs.length ≤ 4096) :
    Memory.wf (Memory.putBytes m a bs) = true := by
  induction bs generalizing m a with
  | nil => exact h
  | cons b bs ih =>
    simp only [List.length_cons] at ha
    exact ih (Memory.wf_put h (by omega)) (by omega)

/-- Reading after successive bytes are written. -/
theorem Memory.byte_putBytes {m : Memory} {a : Nat} {bs : List Byte} (h : Memory.wf m = true) (ha : a + bs.length ≤ 4096)
    (j : Nat) : Memory.byte (Memory.putBytes m a bs) j =
      if h : a ≤ j ∧ j < a + bs.length then bs[j - a]'(by omega) else Memory.byte m j := by
  induction bs generalizing m a with
  | nil => simp [Memory.putBytes, show ¬ (a ≤ j ∧ j < a) by omega]
  | cons b bs ih =>
    simp only [List.length_cons] at ha ⊢
    rw [Memory.putBytes, ih (Memory.wf_put h (by omega)) (by omega), Memory.byte_put h]
    by_cases h1 : j = a
    · subst h1; simp
    · by_cases h2 : a + 1 ≤ j ∧ j < a + 1 + bs.length
      · rw [dif_pos h2, dif_pos (by omega)]
        simp [show j - a = (j - (a + 1)) + 1 by omega]
      · rw [dif_neg h2, dif_neg (by omega), if_neg h1]

theorem Memory.wfFrom_ofBytes (f : Nat → Byte) (a n : Nat) (h : a + n ≤ 4096) :
    Memory.wfFrom a (Memory.ofBytes f a n) = true := by
  induction n generalizing a with
  | zero => rfl
  | succ n ih => exact Memory.wfFrom_cell (ih (a + 1) (by omega)) (Nat.le_refl a) (by omega)

/-- Memory given byte by byte is in canonical form. -/
theorem Memory.wf_ofBytes (f : Nat → Byte) : Memory.wf (Memory.ofBytes f 0 4096) = true :=
  Memory.wfFrom_ofBytes f 0 4096 (Nat.le_refl _)

/-- Memory given byte by byte holds those bytes. -/
theorem Memory.byte_ofBytes (f : Nat → Byte) (a n : Nat) (h : a + n ≤ 4096) (j : Nat) (hj : a ≤ j ∧ j < a + n) :
    Memory.byte (Memory.ofBytes f a n) j = f j := by
  induction n generalizing a with
  | zero => omega
  | succ n ih =>
    rw [Memory.ofBytes, Memory.byte_cell (Memory.wfFrom_ofBytes f (a + 1) n (by omega))]
    split
    · simp [*]
    · exact ih (a + 1) (by omega) (by omega)

/-- Memory after reset is in canonical form. -/
theorem Memory.wf_reset : Memory.wf State.reset.mem = true := rfl

/-- Every address of reset memory reads as the reset contents (R40). -/
theorem Memory.byte_reset (a : Nat) : State.reset.byteAt a = resetByte a := rfl

/-- A byte of a state read after a write. -/
theorem State.setByte_byteAt {s : State} {a : Nat} {b : Byte} (h : Memory.wf s.mem = true) (j : Nat) :
    (s.setByte a b).byteAt j = if j = a then b else s.byteAt j := Memory.byte_put h j

end Sys2Proof.Machine
end

