-- ==== Sys2Proof/Laws/State.lean ====
section
/-! SUPPORT. One lemma for each field under each update of the state, so that no later proof unfolds a record update. -/

namespace Sys2Proof.Machine

variable (s : State)

/-! ### `setV` -/

@[simp] theorem State.setV_V (x : Reg) (b : Byte) : (s.setV x b).V = s.V.set x b := rfl
@[simp] theorem State.setV_pc (x : Reg) (b : Byte) : (s.setV x b).pc = s.pc := rfl
@[simp] theorem State.setV_I (x : Reg) (b : Byte) : (s.setV x b).I = s.I := rfl
@[simp] theorem State.setV_sp (x : Reg) (b : Byte) : (s.setV x b).sp = s.sp := rfl
@[simp] theorem State.setV_stack (x : Reg) (b : Byte) : (s.setV x b).stack = s.stack := rfl
@[simp] theorem State.setV_DT (x : Reg) (b : Byte) : (s.setV x b).DT = s.DT := rfl
@[simp] theorem State.setV_ST (x : Reg) (b : Byte) : (s.setV x b).ST = s.ST := rfl
@[simp] theorem State.setV_key (x : Reg) (b : Byte) : (s.setV x b).key = s.key := rfl
@[simp] theorem State.setV_disp (x : Reg) (b : Byte) : (s.setV x b).disp = s.disp := rfl
@[simp] theorem State.setV_mem (x : Reg) (b : Byte) : (s.setV x b).mem = s.mem := rfl
@[simp] theorem State.setV_status (x : Reg) (b : Byte) : (s.setV x b).status = s.status := rfl
@[simp] theorem State.setV_draws (x : Reg) (b : Byte) : (s.setV x b).draws = s.draws := rfl
@[simp] theorem State.setV_byteAt (x : Reg) (b : Byte) (i : Nat) : (s.setV x b).byteAt i = s.byteAt i := rfl
@[simp] theorem State.setV_dispAt (x : Reg) (b : Byte) (i : Fin 2048) : (s.setV x b).dispAt i = s.dispAt i := rfl
@[simp] theorem State.setV_site (x : Reg) (b : Byte) : (s.setV x b).site = s.site := rfl
@[simp] theorem State.setV_effAddr (x : Reg) (b : Byte) (i : Nat) : effAddr (s.setV x b) i = effAddr s i := rfl

/-! ### `setPc` -/

@[simp] theorem State.setPc_V (w : Word) : (s.setPc w).V = s.V := rfl
@[simp] theorem State.setPc_pc (w : Word) : (s.setPc w).pc = w := rfl
@[simp] theorem State.setPc_I (w : Word) : (s.setPc w).I = s.I := rfl
@[simp] theorem State.setPc_sp (w : Word) : (s.setPc w).sp = s.sp := rfl
@[simp] theorem State.setPc_stack (w : Word) : (s.setPc w).stack = s.stack := rfl
@[simp] theorem State.setPc_DT (w : Word) : (s.setPc w).DT = s.DT := rfl
@[simp] theorem State.setPc_ST (w : Word) : (s.setPc w).ST = s.ST := rfl
@[simp] theorem State.setPc_key (w : Word) : (s.setPc w).key = s.key := rfl
@[simp] theorem State.setPc_disp (w : Word) : (s.setPc w).disp = s.disp := rfl
@[simp] theorem State.setPc_mem (w : Word) : (s.setPc w).mem = s.mem := rfl
@[simp] theorem State.setPc_status (w : Word) : (s.setPc w).status = s.status := rfl
@[simp] theorem State.setPc_draws (w : Word) : (s.setPc w).draws = s.draws := rfl
@[simp] theorem State.setPc_getV (w : Word) (r : Reg) : (s.setPc w).getV r = s.getV r := rfl
@[simp] theorem State.setPc_byteAt (w : Word) (i : Nat) : (s.setPc w).byteAt i = s.byteAt i := rfl
@[simp] theorem State.setPc_dispAt (w : Word) (i : Fin 2048) : (s.setPc w).dispAt i = s.dispAt i := rfl
@[simp] theorem State.setPc_effAddr (w : Word) (i : Nat) : effAddr (s.setPc w) i = effAddr s i := rfl

/-! ### `setI` -/

@[simp] theorem State.setI_V (w : Word) : (s.setI w).V = s.V := rfl
@[simp] theorem State.setI_pc (w : Word) : (s.setI w).pc = s.pc := rfl
@[simp] theorem State.setI_I (w : Word) : (s.setI w).I = w := rfl
@[simp] theorem State.setI_sp (w : Word) : (s.setI w).sp = s.sp := rfl
@[simp] theorem State.setI_stack (w : Word) : (s.setI w).stack = s.stack := rfl
@[simp] theorem State.setI_DT (w : Word) : (s.setI w).DT = s.DT := rfl
@[simp] theorem State.setI_ST (w : Word) : (s.setI w).ST = s.ST := rfl
@[simp] theorem State.setI_key (w : Word) : (s.setI w).key = s.key := rfl
@[simp] theorem State.setI_disp (w : Word) : (s.setI w).disp = s.disp := rfl
@[simp] theorem State.setI_mem (w : Word) : (s.setI w).mem = s.mem := rfl
@[simp] theorem State.setI_status (w : Word) : (s.setI w).status = s.status := rfl
@[simp] theorem State.setI_draws (w : Word) : (s.setI w).draws = s.draws := rfl
@[simp] theorem State.setI_getV (w : Word) (r : Reg) : (s.setI w).getV r = s.getV r := rfl
@[simp] theorem State.setI_byteAt (w : Word) (i : Nat) : (s.setI w).byteAt i = s.byteAt i := rfl
@[simp] theorem State.setI_dispAt (w : Word) (i : Fin 2048) : (s.setI w).dispAt i = s.dispAt i := rfl
@[simp] theorem State.setI_site (w : Word) : (s.setI w).site = s.site := rfl

/-! ### `setSp` -/

@[simp] theorem State.setSp_V (w : Word) : (s.setSp w).V = s.V := rfl
@[simp] theorem State.setSp_pc (w : Word) : (s.setSp w).pc = s.pc := rfl
@[simp] theorem State.setSp_I (w : Word) : (s.setSp w).I = s.I := rfl
@[simp] theorem State.setSp_sp (w : Word) : (s.setSp w).sp = w := rfl
@[simp] theorem State.setSp_stack (w : Word) : (s.setSp w).stack = s.stack := rfl
@[simp] theorem State.setSp_DT (w : Word) : (s.setSp w).DT = s.DT := rfl
@[simp] theorem State.setSp_ST (w : Word) : (s.setSp w).ST = s.ST := rfl
@[simp] theorem State.setSp_key (w : Word) : (s.setSp w).key = s.key := rfl
@[simp] theorem State.setSp_disp (w : Word) : (s.setSp w).disp = s.disp := rfl
@[simp] theorem State.setSp_mem (w : Word) : (s.setSp w).mem = s.mem := rfl
@[simp] theorem State.setSp_status (w : Word) : (s.setSp w).status = s.status := rfl
@[simp] theorem State.setSp_draws (w : Word) : (s.setSp w).draws = s.draws := rfl
@[simp] theorem State.setSp_getV (w : Word) (r : Reg) : (s.setSp w).getV r = s.getV r := rfl
@[simp] theorem State.setSp_byteAt (w : Word) (i : Nat) : (s.setSp w).byteAt i = s.byteAt i := rfl
@[simp] theorem State.setSp_dispAt (w : Word) (i : Fin 2048) : (s.setSp w).dispAt i = s.dispAt i := rfl
@[simp] theorem State.setSp_site (w : Word) : (s.setSp w).site = s.site := rfl
@[simp] theorem State.setSp_effAddr (w : Word) (i : Nat) : effAddr (s.setSp w) i = effAddr s i := rfl

/-! ### `setStack` -/

@[simp] theorem State.setStack_V (k : Fin 16) (w : Word) : (s.setStack k w).V = s.V := rfl
@[simp] theorem State.setStack_pc (k : Fin 16) (w : Word) : (s.setStack k w).pc = s.pc := rfl
@[simp] theorem State.setStack_I (k : Fin 16) (w : Word) : (s.setStack k w).I = s.I := rfl
@[simp] theorem State.setStack_sp (k : Fin 16) (w : Word) : (s.setStack k w).sp = s.sp := rfl
@[simp] theorem State.setStack_stack (k : Fin 16) (w : Word) : (s.setStack k w).stack = s.stack.set k w := rfl
@[simp] theorem State.setStack_DT (k : Fin 16) (w : Word) : (s.setStack k w).DT = s.DT := rfl
@[simp] theorem State.setStack_ST (k : Fin 16) (w : Word) : (s.setStack k w).ST = s.ST := rfl
@[simp] theorem State.setStack_key (k : Fin 16) (w : Word) : (s.setStack k w).key = s.key := rfl
@[simp] theorem State.setStack_disp (k : Fin 16) (w : Word) : (s.setStack k w).disp = s.disp := rfl
@[simp] theorem State.setStack_mem (k : Fin 16) (w : Word) : (s.setStack k w).mem = s.mem := rfl
@[simp] theorem State.setStack_status (k : Fin 16) (w : Word) : (s.setStack k w).status = s.status := rfl
@[simp] theorem State.setStack_draws (k : Fin 16) (w : Word) : (s.setStack k w).draws = s.draws := rfl
@[simp] theorem State.setStack_getV (k : Fin 16) (w : Word) (r : Reg) : (s.setStack k w).getV r = s.getV r := rfl
@[simp] theorem State.setStack_byteAt (k : Fin 16) (w : Word) (i : Nat) : (s.setStack k w).byteAt i = s.byteAt i := rfl
@[simp] theorem State.setStack_dispAt (k : Fin 16) (w : Word) (i : Fin 2048) : (s.setStack k w).dispAt i = s.dispAt i := rfl
@[simp] theorem State.setStack_site (k : Fin 16) (w : Word) : (s.setStack k w).site = s.site := rfl
@[simp] theorem State.setStack_effAddr (k : Fin 16) (w : Word) (i : Nat) : effAddr (s.setStack k w) i = effAddr s i := rfl

/-! ### `setDT` -/

@[simp] theorem State.setDT_V (b : Byte) : (s.setDT b).V = s.V := rfl
@[simp] theorem State.setDT_pc (b : Byte) : (s.setDT b).pc = s.pc := rfl
@[simp] theorem State.setDT_I (b : Byte) : (s.setDT b).I = s.I := rfl
@[simp] theorem State.setDT_sp (b : Byte) : (s.setDT b).sp = s.sp := rfl
@[simp] theorem State.setDT_stack (b : Byte) : (s.setDT b).stack = s.stack := rfl
@[simp] theorem State.setDT_DT (b : Byte) : (s.setDT b).DT = b := rfl
@[simp] theorem State.setDT_ST (b : Byte) : (s.setDT b).ST = s.ST := rfl
@[simp] theorem State.setDT_key (b : Byte) : (s.setDT b).key = s.key := rfl
@[simp] theorem State.setDT_disp (b : Byte) : (s.setDT b).disp = s.disp := rfl
@[simp] theorem State.setDT_mem (b : Byte) : (s.setDT b).mem = s.mem := rfl
@[simp] theorem State.setDT_status (b : Byte) : (s.setDT b).status = s.status := rfl
@[simp] theorem State.setDT_draws (b : Byte) : (s.setDT b).draws = s.draws := rfl
@[simp] theorem State.setDT_getV (b : Byte) (r : Reg) : (s.setDT b).getV r = s.getV r := rfl
@[simp] theorem State.setDT_byteAt (b : Byte) (i : Nat) : (s.setDT b).byteAt i = s.byteAt i := rfl
@[simp] theorem State.setDT_dispAt (b : Byte) (i : Fin 2048) : (s.setDT b).dispAt i = s.dispAt i := rfl
@[simp] theorem State.setDT_site (b : Byte) : (s.setDT b).site = s.site := rfl
@[simp] theorem State.setDT_effAddr (b : Byte) (i : Nat) : effAddr (s.setDT b) i = effAddr s i := rfl

/-! ### `setST` -/

@[simp] theorem State.setST_V (b : Byte) : (s.setST b).V = s.V := rfl
@[simp] theorem State.setST_pc (b : Byte) : (s.setST b).pc = s.pc := rfl
@[simp] theorem State.setST_I (b : Byte) : (s.setST b).I = s.I := rfl
@[simp] theorem State.setST_sp (b : Byte) : (s.setST b).sp = s.sp := rfl
@[simp] theorem State.setST_stack (b : Byte) : (s.setST b).stack = s.stack := rfl
@[simp] theorem State.setST_DT (b : Byte) : (s.setST b).DT = s.DT := rfl
@[simp] theorem State.setST_ST (b : Byte) : (s.setST b).ST = b := rfl
@[simp] theorem State.setST_key (b : Byte) : (s.setST b).key = s.key := rfl
@[simp] theorem State.setST_disp (b : Byte) : (s.setST b).disp = s.disp := rfl
@[simp] theorem State.setST_mem (b : Byte) : (s.setST b).mem = s.mem := rfl
@[simp] theorem State.setST_status (b : Byte) : (s.setST b).status = s.status := rfl
@[simp] theorem State.setST_draws (b : Byte) : (s.setST b).draws = s.draws := rfl
@[simp] theorem State.setST_getV (b : Byte) (r : Reg) : (s.setST b).getV r = s.getV r := rfl
@[simp] theorem State.setST_byteAt (b : Byte) (i : Nat) : (s.setST b).byteAt i = s.byteAt i := rfl
@[simp] theorem State.setST_dispAt (b : Byte) (i : Fin 2048) : (s.setST b).dispAt i = s.dispAt i := rfl
@[simp] theorem State.setST_site (b : Byte) : (s.setST b).site = s.site := rfl
@[simp] theorem State.setST_effAddr (b : Byte) (i : Nat) : effAddr (s.setST b) i = effAddr s i := rfl

/-! ### `setKey` -/

@[simp] theorem State.setKey_V (k : Fin 16) (c : Bool) : (s.setKey k c).V = s.V := rfl
@[simp] theorem State.setKey_pc (k : Fin 16) (c : Bool) : (s.setKey k c).pc = s.pc := rfl
@[simp] theorem State.setKey_I (k : Fin 16) (c : Bool) : (s.setKey k c).I = s.I := rfl
@[simp] theorem State.setKey_sp (k : Fin 16) (c : Bool) : (s.setKey k c).sp = s.sp := rfl
@[simp] theorem State.setKey_stack (k : Fin 16) (c : Bool) : (s.setKey k c).stack = s.stack := rfl
@[simp] theorem State.setKey_DT (k : Fin 16) (c : Bool) : (s.setKey k c).DT = s.DT := rfl
@[simp] theorem State.setKey_ST (k : Fin 16) (c : Bool) : (s.setKey k c).ST = s.ST := rfl
@[simp] theorem State.setKey_key (k : Fin 16) (c : Bool) : (s.setKey k c).key = s.key.set k c := rfl
@[simp] theorem State.setKey_disp (k : Fin 16) (c : Bool) : (s.setKey k c).disp = s.disp := rfl
@[simp] theorem State.setKey_mem (k : Fin 16) (c : Bool) : (s.setKey k c).mem = s.mem := rfl
@[simp] theorem State.setKey_status (k : Fin 16) (c : Bool) : (s.setKey k c).status = s.status := rfl
@[simp] theorem State.setKey_draws (k : Fin 16) (c : Bool) : (s.setKey k c).draws = s.draws := rfl
@[simp] theorem State.setKey_getV (k : Fin 16) (c : Bool) (r : Reg) : (s.setKey k c).getV r = s.getV r := rfl
@[simp] theorem State.setKey_byteAt (k : Fin 16) (c : Bool) (i : Nat) : (s.setKey k c).byteAt i = s.byteAt i := rfl
@[simp] theorem State.setKey_dispAt (k : Fin 16) (c : Bool) (i : Fin 2048) : (s.setKey k c).dispAt i = s.dispAt i := rfl
@[simp] theorem State.setKey_site (k : Fin 16) (c : Bool) : (s.setKey k c).site = s.site := rfl
@[simp] theorem State.setKey_effAddr (k : Fin 16) (c : Bool) (i : Nat) : effAddr (s.setKey k c) i = effAddr s i := rfl

/-! ### `setDisp` -/

@[simp] theorem State.setDisp_V (d : Display) : (s.setDisp d).V = s.V := rfl
@[simp] theorem State.setDisp_pc (d : Display) : (s.setDisp d).pc = s.pc := rfl
@[simp] theorem State.setDisp_I (d : Display) : (s.setDisp d).I = s.I := rfl
@[simp] theorem State.setDisp_sp (d : Display) : (s.setDisp d).sp = s.sp := rfl
@[simp] theorem State.setDisp_stack (d : Display) : (s.setDisp d).stack = s.stack := rfl
@[simp] theorem State.setDisp_DT (d : Display) : (s.setDisp d).DT = s.DT := rfl
@[simp] theorem State.setDisp_ST (d : Display) : (s.setDisp d).ST = s.ST := rfl
@[simp] theorem State.setDisp_key (d : Display) : (s.setDisp d).key = s.key := rfl
@[simp] theorem State.setDisp_disp (d : Display) : (s.setDisp d).disp = d := rfl
@[simp] theorem State.setDisp_mem (d : Display) : (s.setDisp d).mem = s.mem := rfl
@[simp] theorem State.setDisp_status (d : Display) : (s.setDisp d).status = s.status := rfl
@[simp] theorem State.setDisp_draws (d : Display) : (s.setDisp d).draws = s.draws := rfl
@[simp] theorem State.setDisp_getV (d : Display) (r : Reg) : (s.setDisp d).getV r = s.getV r := rfl
@[simp] theorem State.setDisp_byteAt (d : Display) (i : Nat) : (s.setDisp d).byteAt i = s.byteAt i := rfl
@[simp] theorem State.setDisp_site (d : Display) : (s.setDisp d).site = s.site := rfl
@[simp] theorem State.setDisp_effAddr (d : Display) (i : Nat) : effAddr (s.setDisp d) i = effAddr s i := rfl

/-! ### `setByte` -/

@[simp] theorem State.setByte_V (a : Nat) (b : Byte) : (s.setByte a b).V = s.V := rfl
@[simp] theorem State.setByte_pc (a : Nat) (b : Byte) : (s.setByte a b).pc = s.pc := rfl
@[simp] theorem State.setByte_I (a : Nat) (b : Byte) : (s.setByte a b).I = s.I := rfl
@[simp] theorem State.setByte_sp (a : Nat) (b : Byte) : (s.setByte a b).sp = s.sp := rfl
@[simp] theorem State.setByte_stack (a : Nat) (b : Byte) : (s.setByte a b).stack = s.stack := rfl
@[simp] theorem State.setByte_DT (a : Nat) (b : Byte) : (s.setByte a b).DT = s.DT := rfl
@[simp] theorem State.setByte_ST (a : Nat) (b : Byte) : (s.setByte a b).ST = s.ST := rfl
@[simp] theorem State.setByte_key (a : Nat) (b : Byte) : (s.setByte a b).key = s.key := rfl
@[simp] theorem State.setByte_disp (a : Nat) (b : Byte) : (s.setByte a b).disp = s.disp := rfl
@[simp] theorem State.setByte_mem (a : Nat) (b : Byte) : (s.setByte a b).mem = Memory.put s.mem a b := rfl
@[simp] theorem State.setByte_status (a : Nat) (b : Byte) : (s.setByte a b).status = s.status := rfl
@[simp] theorem State.setByte_draws (a : Nat) (b : Byte) : (s.setByte a b).draws = s.draws := rfl
@[simp] theorem State.setByte_getV (a : Nat) (b : Byte) (r : Reg) : (s.setByte a b).getV r = s.getV r := rfl
@[simp] theorem State.setByte_dispAt (a : Nat) (b : Byte) (i : Fin 2048) : (s.setByte a b).dispAt i = s.dispAt i := rfl
@[simp] theorem State.setByte_site (a : Nat) (b : Byte) : (s.setByte a b).site = s.site := rfl
@[simp] theorem State.setByte_effAddr (a : Nat) (b : Byte) (i : Nat) : effAddr (s.setByte a b) i = effAddr s i := rfl

/-! ### `countDraw` -/

@[simp] theorem State.countDraw_V : (s.countDraw).V = s.V := rfl
@[simp] theorem State.countDraw_pc : (s.countDraw).pc = s.pc := rfl
@[simp] theorem State.countDraw_I : (s.countDraw).I = s.I := rfl
@[simp] theorem State.countDraw_sp : (s.countDraw).sp = s.sp := rfl
@[simp] theorem State.countDraw_stack : (s.countDraw).stack = s.stack := rfl
@[simp] theorem State.countDraw_DT : (s.countDraw).DT = s.DT := rfl
@[simp] theorem State.countDraw_ST : (s.countDraw).ST = s.ST := rfl
@[simp] theorem State.countDraw_key : (s.countDraw).key = s.key := rfl
@[simp] theorem State.countDraw_disp : (s.countDraw).disp = s.disp := rfl
@[simp] theorem State.countDraw_mem : (s.countDraw).mem = s.mem := rfl
@[simp] theorem State.countDraw_status : (s.countDraw).status = s.status := rfl
@[simp] theorem State.countDraw_draws : (s.countDraw).draws = s.draws + 1 := rfl
@[simp] theorem State.countDraw_getV (r : Reg) : (s.countDraw).getV r = s.getV r := rfl
@[simp] theorem State.countDraw_byteAt (i : Nat) : (s.countDraw).byteAt i = s.byteAt i := rfl
@[simp] theorem State.countDraw_dispAt (i : Fin 2048) : (s.countDraw).dispAt i = s.dispAt i := rfl
@[simp] theorem State.countDraw_site : (s.countDraw).site = s.site := rfl
@[simp] theorem State.countDraw_effAddr (i : Nat) : effAddr (s.countDraw) i = effAddr s i := rfl

/-! ### Reading back what was written -/

@[simp] theorem State.setV_getV (x : Reg) (b : Byte) (r : Reg) : (s.setV x b).getV r = if x = r then b else s.getV r := by
  simp [State.setV, State.getV, Vector.getElem_set, Fin.ext_iff]

@[simp] theorem State.setDisp_dispAt (d : Display) (k : Fin 2048) : (s.setDisp d).dispAt k = Display.cell d k := rfl

@[simp] theorem State.setPc_site (w : Word) : (s.setPc w).site = w - 2 := rfl

theorem State.setStack_get (k : Fin 16) (w : Word) (j : Fin 16) :
    (s.setStack k w).stack[j] = if k = j then w else s.stack[j] := by
  simp [State.setStack, Vector.getElem_set, Fin.ext_iff]

theorem State.setKey_get (k : Fin 16) (c : Bool) (j : Fin 16) :
    (s.setKey k c).key[j] = if k = j then c else s.key[j] := by
  simp [State.setKey, Vector.getElem_set, Fin.ext_iff]

end Sys2Proof.Machine
end

