-- ==== Sys2Proof/Laws/Ops.lean ====
section
/-! SUPPORT. For each shared operation one lemma that says everything it can do. -/

namespace Sys2Proof.Machine

/-! ## Sequencing -/

@[simp] theorem andThen_next {α β : Type} (a : α) (k : α → Result β) : andThen (.next a) k = k a := rfl

@[simp] theorem andThen_fault {α β : Type} (f : Fault) (k : α → Result β) : andThen (.fault f) k = .fault f := rfl

@[simp] theorem andThen_refused {α β : Type} (e : Refusal) (k : α → Result β) : andThen (.refused e) k = .refused e := rfl

/-- A sequence answers a value exactly when both of its parts do. -/
theorem andThen_eq_next {α β : Type} {r : Result α} {k : α → Result β} {b : β} :
    andThen r k = .next b ↔ ∃ a, r = .next a ∧ k a = .next b := by
  cases r <;> simp

/-- A sequence faults when its first part does, or its second after it. -/
theorem andThen_eq_fault {α β : Type} {r : Result α} {k : α → Result β} {f : Fault} :
    andThen r k = .fault f ↔ r = .fault f ∨ ∃ a, r = .next a ∧ k a = .fault f := by
  cases r <;> simp

/-! ## Memory accesses -/

theorem memRead_inside {s : State} {a : Nat} (h : a < 4096) : memRead s a = .next (s.byteAt a) := by
  simp [memRead, Nat.not_le.mpr h]

theorem memRead_outside {s : State} {a : Nat} (h : 4096 ≤ a) : memRead s a = .fault (.memOOB a s.site) := by
  simp [memRead, h]

theorem memWrite_inside {s : State} {a : Nat} {b : Byte} (h : a < 4096) : memWrite s a b = .next (s.setByte a b) := by
  simp [memWrite, Nat.not_le.mpr h]

theorem memWrite_outside {s : State} {a : Nat} {b : Byte} (h : 4096 ≤ a) : memWrite s a b = .fault (.memOOB a s.site) := by
  simp [memWrite, h]

/-- Bytes stored inside memory. -/
theorem storeBytes_inside {bs : List Byte} {a : Nat} {s : State} (h : a + bs.length ≤ 4096) :
    storeBytes bs a s = .next { s with mem := Memory.putBytes s.mem a bs } := by
  induction bs generalizing a s with
  | nil => rfl
  | cons b bs ih =>
    simp only [List.length_cons] at h
    rw [storeBytes, memWrite_inside (by omega), andThen_next, ih (by omega)]
    rfl

/-- Bytes stored past the end of memory: the fault names the first offending address. -/
theorem storeBytes_outside {bs : List Byte} {a : Nat} {s : State} (hne : bs ≠ []) (h : 4096 < a + bs.length) :
    storeBytes bs a s = .fault (.memOOB (max a 4096) s.site) := by
  induction bs generalizing a s with
  | nil => exact absurd rfl hne
  | cons b bs ih =>
    simp only [List.length_cons] at h
    rw [storeBytes]
    by_cases ha : a < 4096
    · rw [memWrite_inside ha, andThen_next, ih (by rintro rfl; simp at h; omega) (by omega)]
      simp [show max (a + 1) 4096 = max a 4096 by omega]
    · rw [memWrite_outside (by omega), andThen_fault, show max a 4096 = a by omega]

/-- Registers loaded from inside memory: the registers of the range, and no other part of the state. -/
theorem loadBytes_inside {n k a : Nat} {s : State} (hk : k + n ≤ 16) (h : a + k + n ≤ 4096) :
    ∃ v : Vector Byte 16, loadBytes n k a s = .next { s with V := v } ∧
      ∀ r : Reg, v[r] = if k ≤ r.val ∧ r.val < k + n then s.byteAt (a + r.val) else s.V[r] := by
  induction n generalizing k s with
  | zero => exact ⟨s.V, rfl, fun r => by rw [if_neg (by omega)]⟩
  | succ n ih =>
    rw [loadBytes, memRead_inside (by omega), andThen_next, dif_pos (by omega)]
    obtain ⟨v, hv, hr⟩ := ih (k := k + 1) (s := s.setV ⟨k, by omega⟩ (s.byteAt (a + k))) (by omega) (by omega)
    refine ⟨v, by rw [hv]; rfl, fun r => ?_⟩
    rw [hr]
    by_cases h1 : r.val = k
    · rw [if_neg (by omega), if_pos (by omega)]
      simp [State.setV, h1]
    · by_cases h2 : k + 1 ≤ r.val ∧ r.val < k + 1 + n
      · rw [if_pos h2, if_pos (by omega)]
        rfl
      · rw [if_neg h2, if_neg (by omega)]
        simp [State.setV, Ne.symm h1]

/-- Registers loaded from past the end of memory: the fault names the first offending address. -/
theorem loadBytes_outside {n k a : Nat} {s : State} (hn : 0 < n) (h : 4096 < a + k + n) :
    loadBytes n k a s = .fault (.memOOB (max (a + k) 4096) s.site) := by
  induction n generalizing k s with
  | zero => omega
  | succ n ih =>
    rw [loadBytes]
    by_cases ha : a + k < 4096
    · rw [memRead_inside ha, andThen_next, ih (by omega) (by omega)]
      rw [show max (a + (k + 1)) 4096 = max (a + k) 4096 by omega]
      split <;> rfl
    · rw [memRead_outside (by omega), andThen_fault, show max (a + k) 4096 = a + k by omega]

/-- A store of successive bytes completes, or faults at an address past memory. -/
theorem storeBytes_cases (bs : List Byte) (a : Nat) (s : State) :
    storeBytes bs a s = .next { s with mem := Memory.putBytes s.mem a bs } ∧ (bs = [] ∨ a + bs.length ≤ 4096) ∨
      ∃ b : Nat, 4096 ≤ b ∧ storeBytes bs a s = .fault (.memOOB b s.site) := by
  by_cases hn : bs = []
  · subst hn; exact .inl ⟨rfl, .inl rfl⟩
  · by_cases h : a + bs.length ≤ 4096
    · exact .inl ⟨storeBytes_inside h, .inr h⟩
    · exact .inr ⟨_, by omega, storeBytes_outside hn (by omega)⟩

/-- A load of successive registers completes in a state that differs in registers only, or faults at an address past memory. -/
theorem loadBytes_cases (n k a : Nat) (s : State) (hk : k + n ≤ 16) :
    (∃ v : Vector Byte 16, loadBytes n k a s = .next { s with V := v } ∧
      ∀ r : Reg, ¬ (k ≤ r.val ∧ r.val < k + n) → v[r] = s.V[r]) ∨
      ∃ b : Nat, 4096 ≤ b ∧ loadBytes n k a s = .fault (.memOOB b s.site) := by
  by_cases hn : n = 0
  · subst hn; exact .inl ⟨s.V, rfl, fun _ _ => rfl⟩
  · by_cases h : a + k + n ≤ 4096
    · obtain ⟨v, hv, hr⟩ := loadBytes_inside (s := s) hk h
      exact .inl ⟨v, hv, fun r h' => by rw [hr, if_neg h']⟩
    · exact .inr ⟨_, by omega, loadBytes_outside (by omega) (by omega)⟩

/-! ## The stack unit -/

theorem push_room {v : Word} {s : State} (h : s.sp.toNat < 16) :
    push v s = .next ((s.setStack ⟨s.sp.toNat, h⟩ v).setSp (s.sp + 1)) := by simp [push, h]

theorem push_full {v : Word} {s : State} (h : 16 ≤ s.sp.toNat) : push v s = .fault (.stackOverflow s.sp s.site) := by
  simp [push, Nat.not_lt.mpr h]

/-- A pop answers the top entry when the depth is legal and not 0. -/
theorem pop_some {s : State} (h0 : 0 < s.sp.toNat) (h : s.sp.toNat ≤ 16) :
    pop s = .next (s.stack[s.sp.toNat - 1], s.setSp (s.sp - 1)) := by
  rw [pop, if_neg (by omega), dif_pos h]

theorem pop_empty {s : State} (h : s.sp.toNat = 0) : pop s = .fault (.stackUnderflow s.site) := by rw [pop, if_pos h]

theorem pop_illegal {s : State} (h : 16 < s.sp.toNat) : pop s = .refused (.illegalStackPointer s.sp) := by
  rw [pop, if_neg (by omega), dif_neg (by omega)]

/-- A pop completes, or faults on an empty stack, or is refused for an illegal depth. -/
theorem pop_cases (s : State) :
    (∃ _ : 0 < s.sp.toNat, ∃ _ : s.sp.toNat ≤ 16, pop s = .next (s.stack[s.sp.toNat - 1], s.setSp (s.sp - 1))) ∨
      (s.sp.toNat = 0 ∧ pop s = .fault (.stackUnderflow s.site)) ∨
      (16 < s.sp.toNat ∧ pop s = .refused (.illegalStackPointer s.sp)) := by
  by_cases h0 : s.sp.toNat = 0
  · exact .inr (.inl ⟨h0, pop_empty h0⟩)
  · by_cases h : s.sp.toNat ≤ 16
    · exact .inl ⟨by omega, h, pop_some (by omega) h⟩
    · exact .inr (.inr ⟨by omega, pop_illegal (by omega)⟩)

/-- A push completes, or faults on a full stack. -/
theorem push_cases (v : Word) (s : State) :
    (∃ h : s.sp.toNat < 16, push v s = .next ((s.setStack ⟨s.sp.toNat, h⟩ v).setSp (s.sp + 1))) ∨
      (16 ≤ s.sp.toNat ∧ push v s = .fault (.stackOverflow s.sp s.site)) := by
  by_cases h : s.sp.toNat < 16
  · exact .inl ⟨h, push_room h⟩
  · exact .inr ⟨by omega, push_full (by omega)⟩

/-! ## Control and keys -/

theorem skipIf_eq (c : Bool) (s : State) : skipIf c s = s.setPc (if c then s.pc + 2 else s.pc) := by
  cases c <;> rfl

theorem readKey_inside {k : Byte} {s : State} (h : k.toNat < 16) : readKey k s = .next s.key[k.toNat] := by
  simp [readKey, h]

theorem readKey_outside {k : Byte} {s : State} (h : 16 ≤ k.toNat) : readKey k s = .fault (.keyOOB k s.site) := by
  simp [readKey, Nat.not_lt.mpr h]

/-- A key read completes, or faults for an index above 15. -/
theorem readKey_cases (k : Byte) (s : State) :
    (∃ h : k.toNat < 16, readKey k s = .next s.key[k.toNat]) ∨
      (16 ≤ k.toNat ∧ readKey k s = .fault (.keyOOB k s.site)) := by
  by_cases h : k.toNat < 16
  · exact .inl ⟨h, readKey_inside h⟩
  · exact .inr ⟨by omega, readKey_outside (by omega)⟩

/-- The key scan finds nothing exactly when no key is pressed. -/
theorem firstKey_none {s : State} : firstKey s = none ↔ ∀ k : Fin 16, s.key[k] = false := by
  simp only [firstKey, List.findIdx?_eq_none_iff, Vector.mem_toList_iff]
  constructor
  · intro h k
    exact h _ (by simp)
  · intro h b hb
    obtain ⟨i, hi, rfl⟩ := Vector.mem_iff_getElem.mp hb
    exact h ⟨i, hi⟩

/-- The key scan finds a pressed key with none pressed below it. -/
theorem firstKey_some {s : State} {k : Nat} : firstKey s = some k ↔
    ∃ h : k < 16, s.key[k] = true ∧ ∀ (j : Nat) (hj : j < k), s.key[j] = false := by
  simp [firstKey, List.findIdx?_eq_some_iff_getElem]

/-! ## Fetch -/

/-- The word at an address as a number: the byte at the lower address is the high one (R64). -/
theorem State.wordAt_toNat (s : State) (a : Nat) :
    (s.wordAt a).toNat = 256 * (s.byteAt a).toNat + (s.byteAt (a + 1)).toNat := wordOfBytes_toNat _ _

/-- A fetch answers an instruction exactly when both bytes exist and decode. -/
theorem fetchInstr_eq_next {s : State} {i : Instr} {t : State} : fetchInstr s = .next (i, t) ↔
    s.pc.toNat + 1 < 4096 ∧ decodeWord (s.wordAt s.pc.toNat) = some i ∧ t = s.setPc (s.pc + 2) := by
  unfold fetchInstr
  split
  · simp; omega
  · rename_i h
    rw [Nat.not_le] at h
    split <;> simp [*, eq_comm]

/-- A step that answers a state ran the instruction at `pc` on a running machine. -/
theorem step_eq_next {s t : State} : step s = .next t ↔ s.status = .running ∧ s.pc.toNat + 1 < 4096 ∧
    ∃ i, decodeWord (s.wordAt s.pc.toNat) = some i ∧ exec i (s.setPc (s.pc + 2)) = .next t := by
  unfold step
  split
  · simp_all
  · simp only [andThen_eq_next, Prod.exists, fetchInstr_eq_next]
    constructor
    · rintro ⟨i, t', ⟨h1, h2, rfl⟩, h3⟩
      exact ⟨‹_›, h1, i, h2, h3⟩
    · rintro ⟨-, h1, i, h2, h3⟩
      exact ⟨i, _, ⟨h1, h2, rfl⟩, h3⟩

/-! ## Faults and the way back -/

@[simp] theorem enterFault_status (f : Fault) (s : State) : (enterFault f s).status = .faulted f := rfl

theorem enterFault_wf (f : Fault) (s : State) : Memory.wf (enterFault f s).mem = true :=
  Memory.wf_ofBytes (Config.leftover s.draws).byteAt

@[simp] theorem restart_status (s : State) : (restart s).status = .running := rfl

end Sys2Proof.Machine
end

