-- ==== Sys2Proof/Laws/Display.lean ====
section
/-! SUPPORT. The laws of the display grid and of drawing. -/

namespace Sys2Proof.Machine

/-- A toggle changes its cell and no other. -/
theorem Display.cell_toggle (d : Display) (k j : Fin 2048) :
    Display.cell (Display.toggle d k) j = if j = k then !Display.cell d k else Display.cell d j := by
  unfold Display.cell Display.toggle
  by_cases hrow : k.val / 64 = j.val / 64
  · by_cases hcol : k.val % 64 = j.val % 64
    · have : j = k := Fin.ext (by omega)
      subst this
      simp [Display.cell]
    · rw [if_neg (by rintro rfl; exact hcol rfl)]
      simp [hrow, hcol]
  · rw [if_neg (by rintro rfl; exact hrow rfl)]
    simp [hrow]

@[simp] theorem Display.cell_off (k : Fin 2048) : Display.cell Display.off k = false := by
  simp [Display.cell, Display.off]

/-- Sprite rows inside memory: they are drawn one after the other. -/
theorem drawRows_inside {s : State} {x0 y0 n row : Nat} {acc : Display × Bool} (h : n = 0 ∨ effAddr s row + n ≤ 4096) :
    drawRows s x0 y0 n row acc =
      .next ((List.range' row n).foldl (fun acc r => drawRow x0 y0 (s.byteAt (effAddr s r)) r acc) acc) := by
  induction n generalizing row acc with
  | zero => rfl
  | succ n ih =>
    rw [drawRows, memRead_inside (by omega), andThen_next, ih (by simp only [effAddr] at *; omega)]
    rfl

/-- Sprite rows past the end of memory: the fault names the first offending address. -/
theorem drawRows_outside {s : State} {x0 y0 n row : Nat} {acc : Display × Bool} (hn : 0 < n)
    (h : 4096 < effAddr s row + n) :
    drawRows s x0 y0 n row acc = .fault (.memOOB (max (effAddr s row) 4096) s.site) := by
  induction n generalizing row acc with
  | zero => omega
  | succ n ih =>
    rw [drawRows]
    by_cases ha : effAddr s row < 4096
    · rw [memRead_inside ha, andThen_next, ih (by omega) (by simp only [effAddr] at *; omega)]
      simp only [effAddr] at *
      rw [show max (s.I.toNat + (row + 1)) 4096 = max (s.I.toNat + row) 4096 by omega]
    · rw [memRead_outside (by omega), andThen_fault, show max (effAddr s row) 4096 = effAddr s row by omega]

/-- Drawing completes, or faults at an address past memory. -/
theorem drawRows_cases (s : State) (x0 y0 n row : Nat) (acc : Display × Bool) :
    drawRows s x0 y0 n row acc =
        .next ((List.range' row n).foldl (fun acc r => drawRow x0 y0 (s.byteAt (effAddr s r)) r acc) acc) ∨
      ∃ b : Nat, 4096 ≤ b ∧ drawRows s x0 y0 n row acc = .fault (.memOOB b s.site) := by
  by_cases h : n = 0 ∨ effAddr s row + n ≤ 4096
  · exact .inl (drawRows_inside h)
  · exact .inr ⟨_, by omega, drawRows_outside (by omega) (by omega)⟩

end Sys2Proof.Machine
end

