-- ==== Sys2Proof/Laws/PerInstr.lean ====
section
/-! SUPPORT. The statement family `FixedBits`: the word of an instruction has the fixed bits of the instruction's row of the
opcode table (spec/30_encoding.md R97). One lemma for each constructor. -/

namespace Sys2Proof.Laws

theorem and_allOnes_nibble (a : Nibble) : a &&& 0xF#4 = a := BitVec.and_allOnes

theorem and_allOnes_byte (a : Byte) : a &&& 0xFF#8 = a := BitVec.and_allOnes

theorem formatNNN_fixed (d1 : Nibble) (nnn : Word) : formatNNN d1 nnn &&& 0xF000#16 = d1 ++ 0#12 := by
  change (d1 ++ nnn.setWidth 12) &&& (0xF#4 ++ 0#12) = _
  rw [BitVec.and_append, and_allOnes_nibble, BitVec.and_zero]

theorem formatXNN_fixed (d1 : Nibble) (x : Reg) (nn : Byte) : formatXNN d1 x nn &&& 0xF000#16 = d1 ++ 0#4 ++ 0#8 := by
  change (d1 ++ regField x ++ nn) &&& (0xF#4 ++ 0#4 ++ 0#8) = _
  rw [BitVec.and_append, BitVec.and_append, and_allOnes_nibble, BitVec.and_zero, BitVec.and_zero]

theorem formatX_fixed (d1 : Nibble) (x : Reg) (nn : Byte) : formatXNN d1 x nn &&& 0xF0FF#16 = d1 ++ 0#4 ++ nn := by
  change (d1 ++ regField x ++ nn) &&& (0xF#4 ++ 0#4 ++ 0xFF#8) = _
  rw [BitVec.and_append, BitVec.and_append, and_allOnes_nibble, BitVec.and_zero, and_allOnes_byte]

theorem formatXY_fixed (d1 : Nibble) (x y : Reg) (n : Nibble) :
    formatXYN d1 x y n &&& 0xF00F#16 = d1 ++ 0#4 ++ 0#4 ++ n := by
  change (d1 ++ regField x ++ regField y ++ n) &&& (0xF#4 ++ 0#4 ++ 0#4 ++ 0xF#4) = d1 ++ 0#4 ++ 0#4 ++ n
  rw [BitVec.and_append, BitVec.and_append, BitVec.and_append, and_allOnes_nibble, BitVec.and_zero, BitVec.and_zero,
    and_allOnes_nibble]

theorem formatXYN_fixed (d1 : Nibble) (x y : Reg) (n : Nibble) :
    formatXYN d1 x y n &&& 0xF000#16 = d1 ++ 0#4 ++ 0#4 ++ 0#4 := by
  change (d1 ++ regField x ++ regField y ++ n) &&& (0xF#4 ++ 0#4 ++ 0#4 ++ 0#4) = d1 ++ 0#4 ++ 0#4 ++ 0#4
  rw [BitVec.and_append, BitVec.and_append, BitVec.and_append, and_allOnes_nibble, BitVec.and_zero, BitVec.and_zero,
    BitVec.and_zero]

end Sys2Proof.Laws

namespace Sys2Proof.Laws.FixedBits

/-- The word of the instruction has the fixed bits of its row. -/
def Statement (i : Instr) : Prop := encode i &&& (rowOf i).mask = (rowOf i).pattern

theorem nop : Statement .nop := rfl

theorem cls : Statement .cls := rfl

theorem ret : Statement .ret := rfl

theorem jp (nnn : Word) : Statement (.jp nnn) := formatNNN_fixed _ nnn

theorem call (nnn : Word) : Statement (.call nnn) := formatNNN_fixed _ nnn

theorem seByte (x : Reg) (nn : Byte) : Statement (.seByte x nn) := formatXNN_fixed _ x nn

theorem sneByte (x : Reg) (nn : Byte) : Statement (.sneByte x nn) := formatXNN_fixed _ x nn

theorem seReg (x : Reg) (y : Reg) : Statement (.seReg x y) := formatXY_fixed _ x y _

theorem ldByte (x : Reg) (nn : Byte) : Statement (.ldByte x nn) := formatXNN_fixed _ x nn

theorem addByte (x : Reg) (nn : Byte) : Statement (.addByte x nn) := formatXNN_fixed _ x nn

theorem ldReg (x : Reg) (y : Reg) : Statement (.ldReg x y) := formatXY_fixed _ x y _

theorem orReg (x : Reg) (y : Reg) : Statement (.orReg x y) := formatXY_fixed _ x y _

theorem andReg (x : Reg) (y : Reg) : Statement (.andReg x y) := formatXY_fixed _ x y _

theorem xorReg (x : Reg) (y : Reg) : Statement (.xorReg x y) := formatXY_fixed _ x y _

theorem addReg (x : Reg) (y : Reg) : Statement (.addReg x y) := formatXY_fixed _ x y _

theorem subReg (x : Reg) (y : Reg) : Statement (.subReg x y) := formatXY_fixed _ x y _

theorem shr (x : Reg) (y : Reg) : Statement (.shr x y) := formatXY_fixed _ x y _

theorem subnReg (x : Reg) (y : Reg) : Statement (.subnReg x y) := formatXY_fixed _ x y _

theorem shl (x : Reg) (y : Reg) : Statement (.shl x y) := formatXY_fixed _ x y _

theorem sneReg (x : Reg) (y : Reg) : Statement (.sneReg x y) := formatXY_fixed _ x y _

theorem ldI (nnn : Word) : Statement (.ldI nnn) := formatNNN_fixed _ nnn

theorem jpV0 (nnn : Word) : Statement (.jpV0 nnn) := formatNNN_fixed _ nnn

theorem rnd (x : Reg) (nn : Byte) : Statement (.rnd x nn) := formatXNN_fixed _ x nn

theorem drw (x : Reg) (y : Reg) (n : Nat) : Statement (.drw x y n) := formatXYN_fixed _ x y _

theorem skp (x : Reg) : Statement (.skp x) := formatX_fixed _ x _

theorem sknp (x : Reg) : Statement (.sknp x) := formatX_fixed _ x _

theorem ldVxDT (x : Reg) : Statement (.ldVxDT x) := formatX_fixed _ x _

theorem ldVxK (x : Reg) : Statement (.ldVxK x) := formatX_fixed _ x _

theorem ldDTVx (x : Reg) : Statement (.ldDTVx x) := formatX_fixed _ x _

theorem ldSTVx (x : Reg) : Statement (.ldSTVx x) := formatX_fixed _ x _

theorem addIVx (x : Reg) : Statement (.addIVx x) := formatX_fixed _ x _

theorem ldFVx (x : Reg) : Statement (.ldFVx x) := formatX_fixed _ x _

theorem ldBVx (x : Reg) : Statement (.ldBVx x) := formatX_fixed _ x _

theorem storeRegs (x : Reg) : Statement (.storeRegs x) := formatX_fixed _ x _

theorem loadRegs (x : Reg) : Statement (.loadRegs x) := formatX_fixed _ x _

end Sys2Proof.Laws.FixedBits
end

