-- ==== Sys2Proof/Tests/Slice0.lean ====
section
/-! SUPPORT. Tests of the model. Expected results are the vectors of spec/95_test_vectors.md, named by their ids, and for the
decoder words written bit by bit from the layouts of spec/30_encoding.md R92. Then, for each statement with hypotheses, a
witness that meets them. -/

namespace Sys2Proof.Tests

open Sys2Proof.Machine

/-! ## Helpers -/

/-- The reset state with `pc = p` and the word `w` there. -/
def at' (p w : Nat) (s : State) : State := { s with pc := BitVec.ofNat 16 p }.withFetchWord 16 w

/-- The step answers a state of which `post` holds. -/
def runs (s : State) (post : State → Bool) : Bool :=
  match step s with
  | .next t => post t
  | .fault _ => false
  | .refused _ => false

/-- The step raises the fault. -/
def faults (s : State) (f : Fault) : Bool :=
  match step s with
  | .next _ => false
  | .fault g => decide (g = f)
  | .refused _ => false

/-- The transaction completes with a reply and a state of which `post` holds. -/
def done (r : TransactionResult) (post : Reply → State → Bool) : Bool :=
  match r with
  | .done reply s => post reply s
  | .faulted _ _ => false
  | .refused _ => false

def v (l : List (Reg × Byte)) (s : State) : State := l.foldl (fun s c => s.setV c.1 c.2) s

def r0 : State := State.reset

/-- A state with bytes placed from `a` up. -/
def bytes (a : Nat) (l : List Byte) (s : State) : State := { s with mem := Memory.putBytes s.mem a l }

/-! ## Well-formedness: an ill-formed term for each check -/

theorem test_wf_refuses_long_address : (Instr.jp 0x1000).wellFormed = false ∧ (Instr.call 0x1000).wellFormed = false ∧
    (Instr.ldI 0x1000).wellFormed = false ∧ (Instr.jpV0 0x1000).wellFormed = false := by decide

theorem test_wf_refuses_tall_sprite : (Instr.drw 0 1 16).wellFormed = false := by decide

theorem test_wf_accepts_boundary : (Instr.jp 0xFFF).wellFormed = true ∧ (Instr.drw 15 15 15).wellFormed = true := by decide

/-! ## Decoding, word by word -/

theorem test_decode_d0 : decodeWord 0b0000000000000000#16 = some .nop ∧ decodeWord 0b0000000011100000#16 = some .cls ∧
    decodeWord 0b0000000011101110#16 = some .ret := by decide

theorem test_decode_nnn : decodeWord 0b0001101010111100#16 = some (.jp 0xABC) ∧
    decodeWord 0b0010001000010000#16 = some (.call 0x210) ∧ decodeWord 0b1010001100000000#16 = some (.ldI 0x300) ∧
    decodeWord 0b1011111111111111#16 = some (.jpV0 0xFFF) := by decide

theorem test_decode_xnn : decodeWord 0b0011001101000010#16 = some (.seByte 3 0x42) ∧
    decodeWord 0b0100001101000010#16 = some (.sneByte 3 0x42) ∧ decodeWord 0b0110101001111011#16 = some (.ldByte 10 0x7B) ∧
    decodeWord 0b0111111100000001#16 = some (.addByte 15 0x01) ∧ decodeWord 0b1100000100001111#16 = some (.rnd 1 0x0F) := by
  decide

theorem test_decode_xy : decodeWord 0b0101000100100000#16 = some (.seReg 1 2) ∧
    decodeWord 0b1000000100100000#16 = some (.ldReg 1 2) ∧ decodeWord 0b1000000100100001#16 = some (.orReg 1 2) ∧
    decodeWord 0b1000000100100010#16 = some (.andReg 1 2) ∧ decodeWord 0b1000000100100011#16 = some (.xorReg 1 2) ∧
    decodeWord 0b1000000100100100#16 = some (.addReg 1 2) ∧ decodeWord 0b1000000100100101#16 = some (.subReg 1 2) ∧
    decodeWord 0b1000000100100110#16 = some (.shr 1 2) ∧ decodeWord 0b1000000100100111#16 = some (.subnReg 1 2) ∧
    decodeWord 0b1000000100101110#16 = some (.shl 1 2) ∧ decodeWord 0b1001000100100000#16 = some (.sneReg 1 2) ∧
    decodeWord 0b1101000100100101#16 = some (.drw 1 2 5) := by decide

theorem test_decode_x : decodeWord 0b1110010110011110#16 = some (.skp 5) ∧ decodeWord 0b1110010110100001#16 = some (.sknp 5) ∧
    decodeWord 0b1111000100000111#16 = some (.ldVxDT 1) ∧ decodeWord 0b1111000100001010#16 = some (.ldVxK 1) ∧
    decodeWord 0b1111000100010101#16 = some (.ldDTVx 1) ∧ decodeWord 0b1111000100011000#16 = some (.ldSTVx 1) ∧
    decodeWord 0b1111000100011110#16 = some (.addIVx 1) ∧ decodeWord 0b1111000100101001#16 = some (.ldFVx 1) ∧
    decodeWord 0b1111000100110011#16 = some (.ldBVx 1) ∧ decodeWord 0b1111000101010101#16 = some (.storeRegs 1) ∧
    decodeWord 0b1111000101100101#16 = some (.loadRegs 1) := by decide

/-- V-C16, V-C19, V-A33, V-A34, V-K14, V-K15, V-F1 to V-F7: illegal words. -/
theorem test_decode_illegal : [0x5011#16, 0x9018#16, 0x8008#16, 0x800F#16, 0xE09F#16, 0xF000#16, 0x0001#16, 0x00E1#16, 0x0FFF#16,
    0xE000#16, 0xF0FF#16, 0xFFFF#16, 0xF01F#16].all (fun w => decide (decodeWord w = none)) = true := by decide

theorem test_decode_bytes : decode [0x80#8, 0x14#8, 0xFF#8] = .ok (.addReg 0 1, [0xFF#8]) ∧
    decode [0x80#8] = .error .tooFewBytes ∧ decode [0x50#8, 0x11#8] = .error (.unimplementedOpcode 0x5011) := ⟨rfl, rfl, rfl⟩

theorem test_decode_table_word : decodeTableWord 16 0xD125 = some (.drw 1 2 5) ∧ decodeTableWord 16 0x0001 = none := by decide

/-! ## Control transfer -/

theorem test_nop : runs (at' 0x200 0x0000 r0) (fun t => decide (t.pc = 0x202)) = true := by decide -- V-C1
theorem test_jp : runs (at' 0x200 0x1ABC r0) (fun t => decide (t.pc = 0xABC)) = true := by decide -- V-C2
theorem test_call : runs (at' 0x204 0x2210 r0) (fun t => decide (t.pc = 0x210 ∧ t.sp = 1 ∧ t.stack[0] = 0x206)) = true := by
  decide -- V-C4
theorem test_call_full : faults (at' 0x204 0x2210 (r0.setSp 16)) (.stackOverflow 16 0x204) = true := by decide -- V-C5
theorem test_ret : runs (at' 0x212 0x00EE ((r0.setSp 1).setStack 0 0x206)) (fun t => decide (t.pc = 0x206 ∧ t.sp = 0)) = true := by
  decide -- V-C6
theorem test_ret_empty : faults (at' 0x212 0x00EE r0) (.stackUnderflow 0x212) = true := by decide -- V-C7
theorem test_se_byte : runs (at' 0x300 0x3342 (v [(3, 0x42)] r0)) (fun t => decide (t.pc = 0x304)) = true := by decide -- V-C8
theorem test_sne_byte : runs (at' 0x300 0x4342 (v [(3, 0x42)] r0)) (fun t => decide (t.pc = 0x302)) = true := by decide -- V-C10
theorem test_se_reg : runs (at' 0x206 0x5010 (v [(0, 4), (1, 5)] r0)) (fun t => decide (t.pc = 0x208)) = true := by decide -- V-C14
theorem test_sne_reg : runs (at' 0x206 0x9010 (v [(0, 4), (1, 5)] r0)) (fun t => decide (t.pc = 0x20A)) = true := by decide -- V-C17
theorem test_jp_v0 : runs (at' 0x200 0xBFFF (v [(0, 0xFF)] r0)) (fun t => decide (t.pc = 0x10FE)) = true := by decide -- V-C21
theorem test_skip_last_word : runs (at' 0xFFC 0x3000 r0) (fun t => decide (t.pc = 0x1000)) = true := by decide -- V-C23
theorem test_fetch_past_end : faults (r0.setPc 0xFFF) (.fetchOOB 0xFFF) = true := by decide -- V-C26
theorem test_odd_pc : runs (at' 0x301 0x607F r0) (fun t => decide (t.getV 0 = 0x7F ∧ t.pc = 0x303)) = true := by decide -- V-C27
theorem test_illegal : faults (at' 0x206 0x5011 r0) (.unimplementedOpcode 0x5011 0x206) = true := by decide -- V-C16

/-! ## ALU -/

theorem test_ld_byte : runs (at' 0x200 0x6A7B r0) (fun t => decide (t.getV 10 = 0x7B)) = true := by decide -- V-A1
theorem test_add_byte : runs (at' 0x200 0x7003 (v [(0, 0xFE), (15, 0x55)] r0))
    (fun t => decide (t.getV 0 = 0x01 ∧ t.getV 15 = 0x55)) = true := by decide -- V-A3
theorem test_ld_reg : runs (at' 0x200 0x8010 (v [(1, 0x33)] r0)) (fun t => decide (t.getV 0 = 0x33)) = true := by decide -- V-A6
theorem test_or : runs (at' 0x200 0x8011 (v [(0, 0xF0), (1, 0x0F), (15, 0x55)] r0))
    (fun t => decide (t.getV 0 = 0xFF ∧ t.getV 15 = 0x55)) = true := by decide -- V-A7
theorem test_and : runs (at' 0x200 0x8012 (v [(0, 0xF0), (1, 0x3C), (15, 0x55)] r0))
    (fun t => decide (t.getV 0 = 0x30 ∧ t.getV 15 = 0x55)) = true := by decide -- V-A8
theorem test_xor : runs (at' 0x200 0x8013 (v [(0, 0xF0), (1, 0x3C), (15, 0x55)] r0))
    (fun t => decide (t.getV 0 = 0xCC ∧ t.getV 15 = 0x55)) = true := by decide -- V-A9
theorem test_add : runs (at' 0x200 0x8014 (v [(0, 0xFF), (1, 0x01)] r0))
    (fun t => decide (t.getV 0 = 0 ∧ t.getV 15 = 1)) = true := by decide -- V-A11
theorem test_add_vf : runs (at' 0x200 0x8F04 (v [(0, 0xF5), (15, 0x10)] r0)) (fun t => decide (t.getV 15 = 1)) = true := by
  decide -- V-A14
theorem test_sub : runs (at' 0x200 0x8015 (v [(0, 1), (1, 2)] r0)) (fun t => decide (t.getV 0 = 0xFF ∧ t.getV 15 = 0)) = true := by
  decide -- V-A16
theorem test_sub_equal : runs (at' 0x200 0x8015 (v [(0, 5), (1, 5)] r0))
    (fun t => decide (t.getV 0 = 0 ∧ t.getV 15 = 1)) = true := by decide -- V-A17
theorem test_shr : runs (at' 0x200 0x8356 (v [(3, 0x02), (5, 0xFF)] r0))
    (fun t => decide (t.getV 3 = 1 ∧ t.getV 15 = 0)) = true := by decide -- V-A22
theorem test_shr_vf : runs (at' 0x200 0x8F06 (v [(15, 0x03)] r0)) (fun t => decide (t.getV 15 = 0)) = true := by decide -- V-A23
theorem test_subn : runs (at' 0x200 0x8237 (v [(2, 5), (3, 3)] r0))
    (fun t => decide (t.getV 2 = 0xFE ∧ t.getV 15 = 0)) = true := by decide -- V-A24
theorem test_shl : runs (at' 0x200 0x822E (v [(2, 0xFE)] r0)) (fun t => decide (t.getV 2 = 0xFC ∧ t.getV 15 = 1)) = true := by
  decide -- V-A27
theorem test_shl_vf : runs (at' 0x200 0x8F0E (v [(15, 0x80)] r0)) (fun t => decide (t.getV 15 = 2)) = true := by decide -- V-A29
theorem test_rnd : exec (.rnd 1 0x0F) r0 = .next (r0.countDraw.setV 1 (Config.rand 0 &&& 0x0F)) := rfl -- V-A31, any drawn byte

/-! ## Index register and memory -/

theorem test_ld_i : runs (at' 0x200 0xA300 r0) (fun t => decide (t.I = 0x300)) = true := by decide -- V-M1
theorem test_add_i : runs (at' 0x200 0xF11E (v [(1, 5), (15, 0x55)] (r0.setI 0xFFE)))
    (fun t => decide (t.I = 0x1003 ∧ t.getV 15 = 0x55)) = true := by decide -- V-M2
theorem test_add_i_wraps : runs (at' 0x200 0xF11E (v [(1, 2)] (r0.setI 0xFFFF))) (fun t => decide (t.I = 1)) = true := by
  decide -- V-M3
theorem test_ld_f : runs (at' 0x200 0xF229 (v [(2, 0xFF)] r0)) (fun t => decide (t.I = 0x4FB)) = true := by decide -- V-M6
theorem test_ld_b : runs (at' 0x200 0xFA33 (v [(10, 0x7B)] (r0.setI 0x300)))
    (fun t => decide (t.byteAt 0x300 = 1 ∧ t.byteAt 0x301 = 2 ∧ t.byteAt 0x302 = 3)) = true := by decide -- V-M7
theorem test_ld_b_past_end : faults (at' 0x200 0xF033 (v [(0, 7)] (r0.setI 0xFFE))) (.memOOB 0x1000 0x200) = true := by
  decide -- V-M11
theorem test_store : runs (at' 0x200 0xF255 (v [(0, 1), (1, 2), (2, 3)] (r0.setI 0x400)))
    (fun t => decide (t.byteAt 0x400 = 1 ∧ t.byteAt 0x402 = 3 ∧ t.byteAt 0x403 = 0 ∧ t.I = 0x400)) = true := by decide -- V-M12
theorem test_store_past_end : faults (at' 0x200 0xFF55 (r0.setI 0xFF1)) (.memOOB 0x1000 0x200) = true := by decide -- V-M15
theorem test_load : runs (at' 0x200 0xF265 (bytes 0x300 [1, 2, 3] (v [(3, 9)] (r0.setI 0x300))))
    (fun t => decide (t.getV 0 = 1 ∧ t.getV 1 = 2 ∧ t.getV 2 = 3 ∧ t.getV 3 = 9)) = true := by decide -- V-M17
theorem test_load_code : runs (at' 0x200 0xF165 (r0.setI 0x200)) (fun t => decide (t.getV 0 = 0xF1 ∧ t.getV 1 = 0x65)) = true := by
  decide -- V-M19
/-- V-M16: the font area is written like any other memory. -/
theorem test_store_in_font (t : State) (h : exec (.storeRegs 0) r0 = .next t) : t.byteAt 0 = 0 := by
  cases h
  simp [State.byteAt, State.setByte, Memory.put, Memory.cell, effAddr, r0, State.reset]
  split <;> simp_all [Memory.byte, Memory.listed]

/-! ## Display -/

def on (k : Fin 2048) (s : State) : State := s.setDisp (Display.toggle s.disp k)

theorem test_cls : runs (at' 0x200 0x00E0 (on 2047 (on 100 (on 0 r0))))
    (fun t => !t.dispAt 0 && !t.dispAt 100 && !t.dispAt 2047) = true := by decide -- V-D1
theorem test_draw_wraps : runs (at' 0x200 0xD012 (bytes 0x300 [0xC3, 0x81] (v [(0, 62), (1, 31)] (r0.setI 0x300))))
    (fun t => t.dispAt 5 && t.dispAt 62 && t.dispAt 1988 && t.dispAt 2047 && !t.dispAt 1984 && decide (t.getV 15 = 0)) = true := by
  decide -- V-D5
theorem test_draw_collides : runs (at' 0x200 0xD011 (bytes 0x300 [0xF0] (on 4 (on 1 (r0.setI 0x300)))))
    (fun t => t.dispAt 0 && !t.dispAt 1 && t.dispAt 2 && t.dispAt 3 && t.dispAt 4 && decide (t.getV 15 = 1)) = true := by
  decide -- V-D9
theorem test_draw_past_end : faults (at' 0x200 0xD01F (r0.setI 0xFF5)) (.memOOB 0x1000 0x200) = true := by decide -- V-D8
theorem test_draw_no_rows : runs (at' 0x200 0xD010 (v [(15, 1)] (r0.setI 0xFFFF))) (fun t => decide (t.getV 15 = 0)) = true := by
  decide -- V-D7

/-! ## Keys and timers -/

theorem test_skp : runs (at' 0x300 0xE59E (v [(5, 7)] (r0.setKey 7 true))) (fun t => decide (t.pc = 0x304)) = true := by decide -- V-K1
theorem test_skp_range : faults (at' 0x300 0xE59E (v [(5, 16)] r0)) (.keyOOB 16 0x300) = true := by decide -- V-K5
theorem test_sknp : runs (at' 0x300 0xE5A1 (v [(5, 7)] (r0.setKey 7 true))) (fun t => decide (t.pc = 0x302)) = true := by decide -- V-K4
theorem test_sknp_range : faults (at' 0x300 0xE5A1 (v [(5, 0xFF)] r0)) (.keyOOB 255 0x300) = true := by decide -- V-K6
theorem test_ld_vx_dt : runs (at' 0x200 0xF107 (r0.setDT 4)) (fun t => decide (t.getV 1 = 4)) = true := by decide -- V-K7
theorem test_key_wait : runs (at' 0x200 0xF00A (v [(0, 0x55)] r0)) (fun t => decide (t.pc = 0x200 ∧ t.getV 0 = 0x55)) = true := by
  decide -- V-K8
theorem test_key_found : runs (at' 0x200 0xF00A ((r0.setKey 9 true).setKey 3 true))
    (fun t => decide (t.pc = 0x202 ∧ t.getV 0 = 3)) = true := by decide -- V-K9
theorem test_ld_dt : runs (at' 0x200 0xF015 (v [(0, 7)] r0)) (fun t => decide (t.DT = 7)) = true := by decide -- V-K11
theorem test_ld_st : runs (at' 0x200 0xF018 (v [(0, 3)] r0)) (fun t => decide (t.ST = 3)) = true := by decide -- V-K12

/-! ## Host transactions -/

theorem test_tick_timers : done (transact .tickTimers ((r0.setDT 5).setST 1))
    (fun r t => decide (r = .soundStop true ∧ t.DT = 4 ∧ t.ST = 0)) = true := by decide -- V-T2, V-T4
theorem test_tick_timers_floor : done (transact .tickTimers r0)
    (fun r t => decide (r = .soundStop false ∧ t.DT = 0 ∧ t.ST = 0)) = true := by decide -- V-T1
theorem test_key_press : done (transact (.keyPress 7 true) r0) (fun _ t => t.key[7]) = true := by decide -- V-T8
theorem test_key_press_range : transact (.keyPress 16 true) r0 = .refused (.keyIndexOutOfRange 16) := rfl -- V-T10
theorem test_load_then_fetch : done (transact (.load [0x1A, 0xBC]) r0) (fun _ t => runs t (fun u => decide (u.pc = 0xABC))) = true := by
  decide -- E4
theorem test_read_sound : transact .readSoundTimer (r0.setST 0x2A) = .done (.soundTimer 0x2A) (r0.setST 0x2A) := rfl -- V-T6
theorem test_faulted_refuses : transact .getDisplay { r0 with status := .faulted (.loadOOB 3585) } =
    .refused (.machineFaulted (.loadOOB 3585)) := rfl -- V-T15
theorem test_reset_after_fault : transact .reset { r0 with status := .faulted (.loadOOB 3585), sp := 3 } = .done .nothing r0 :=
  rfl -- V-T16
theorem test_fault_codes : (kindCode (faultKind (.keyOOB 16 0x300)), (faultSub (.keyOOB 16 0x300)).map subCode,
    faultInfo (.keyOOB 16 0x300), faultSite (.keyOOB 16 0x300)) = (1, some 6, 16, some 0x300) := rfl -- R331

/-! ## Witnesses: states and operands that meet the hypotheses of the statements, clause by clause -/

theorem witness_DecodeOfEncode : (Instr.jp 0xFFF).wellFormed = true ∧ (Instr.drw 15 0 15).wellFormed = true := by decide
theorem witness_EncodeOfDecode : decodeWord 0x822E = some (.shl 2 2) := by decide
theorem witness_DecodeFollowsTheOpcodeTable : decodeWord 0x8014 = some (.addReg 0 1) ∧
    (∃ r ∈ opcodeRows, rowMatches 0xF165 r = true) ∧ (∀ r ∈ opcodeRows, rowMatches 0x0001 r = false) := by decide
theorem witness_FieldsStand : 0xFFF < 0x1000 ∧ 0xF < 0x10 := by decide
theorem witness_LegalWords : (0x5121#16).toNat / 0x1000 = 0x5 ∧ (0x9120#16).toNat / 0x1000 = 0x9 ∧
    (0x00EE#16).toNat / 0x1000 = 0x0 ∧ (0x800E#16).toNat / 0x1000 = 0x8 ∧ (0xE0A1#16).toNat / 0x1000 = 0xE ∧
    (0xF065#16).toNat / 0x1000 = 0xF ∧ (0xDFFF#16).toNat / 0x1000 ∈ [0x1, 0x2, 0x3, 0x4, 0x6, 0x7, 0xA, 0xB, 0xC, 0xD] := by decide

/-- The word at `pc` as the step statements write it. -/
def wordNumber (s : State) : Word :=
  BitVec.ofNat 16 (256 * (s.byteAt s.pc.toNat).toNat + (s.byteAt (s.pc.toNat + 1)).toNat)

theorem witness_StepRunsTheDecodedInstruction : (at' 0xFFE 0x8014 r0).status = .running ∧
    (at' 0xFFE 0x8014 r0).pc.toNat + 1 < 4096 ∧ decodeWord (wordNumber (at' 0xFFE 0x8014 r0)) = some (.addReg 0 1) := by decide
theorem witness_FetchPastTheEndFaults : (r0.setPc 0xFFF).status = .running ∧ 4096 ≤ (r0.setPc 0xFFF).pc.toNat + 1 := by decide
theorem witness_IllegalWordFaults : (at' 0x206 0x5011 r0).status = .running ∧ (at' 0x206 0x5011 r0).pc.toNat + 1 < 4096 ∧
    wordNumber (at' 0x206 0x5011 r0) = 0x5011 ∧ decodeWord 0x5011 = none := by decide
theorem witness_OnlyTheListedInstructionsFault : exec .ret r0 = .fault (.stackUnderflow (r0.pc - 2)) ∧
    exec (.call 0) (r0.setSp 16) = .fault (.stackOverflow 16 (r0.pc - 2)) ∧
    exec (.ldBVx 0) (r0.setI 0xFFE) = .fault (.memOOB 4096 (r0.pc - 2)) ∧
    exec (.skp 0) (r0.setV 0 16) = .fault (.keyOOB 16 (r0.pc - 2)) ∧
    exec .ret (r0.setSp 17) = .refused (.illegalStackPointer 17) := ⟨rfl, rfl, rfl, rfl, rfl⟩
theorem witness_FaultEntrySetsTheStatus : step (r0.setPc 0xFFF) = .fault (.fetchOOB 0xFFF) ∧
    ∃ u, transact .tick (r0.setPc 0xFFF) = .faulted (.fetchOOB 0xFFF) u := ⟨rfl, _, rfl⟩
theorem witness_FaultEntrySetsTheStatus_load : ∃ u, transact (.load (List.replicate 3585 0)) r0 = .faulted (.loadOOB 3585) u :=
  ⟨enterFault (.loadOOB 3585) r0, by simp only [transact, loadProgram, List.length_replicate]; rfl⟩
theorem witness_FaultedMachineRefuses : ({ r0 with status := .faulted (.fetchOOB 0xFFF) } : State).status = .faulted (.fetchOOB 0xFFF) ∧
    Transaction.tick ≠ .create ∧ Transaction.tick ≠ .reset := by decide
theorem witness_Inv : Inv r0 := ⟨rfl, by decide, by decide, by decide⟩
theorem witness_StepKeepsInv : Inv r0 ∧ ∃ t, step r0 = .next t := ⟨witness_Inv, _, rfl⟩
theorem witness_SchedulesKeepRunInv : RunInv r0 ∧
    ∃ t, runSchedule [.keyPress 15 true, .tickTimers, .tick, .reset, .load [0x00, 0xEE], .tick, .create] r0 = some t :=
  ⟨⟨rfl, fun _ => witness_Inv⟩, _, rfl⟩
theorem witness_NopOnlyAdvancesPc : r0.status = .running ∧ r0.pc.toNat + 1 < 4096 ∧ r0.byteAt r0.pc.toNat = 0 ∧
    r0.byteAt (r0.pc.toNat + 1) = 0 := by decide
theorem witness_IndexedJumpAddsV0 : (Instr.jpV0 0xFFF).wellFormed = true := by decide
theorem witness_CallPushesAndJumps : (r0.setSp 15).sp.toNat < 16 := by decide
theorem witness_CallOnFullStackFaults : 16 ≤ (r0.setSp 16).sp.toNat := by decide
theorem witness_ReturnPopsOrStops : (1 ≤ (r0.setSp 1).sp.toNat ∧ (r0.setSp 1).sp.toNat ≤ 16) ∧
    (1 ≤ (r0.setSp 16).sp.toNat ∧ (r0.setSp 16).sp.toNat ≤ 16) ∧ r0.sp = 0 ∧ 16 < (r0.setSp 17).sp.toNat := by decide
theorem witness_ReturnUndoesCall : ∃ t, exec (.call 0x210) (r0.setSp 15) = .next t ∧ t.sp = t.sp ∧ t.stack = t.stack :=
  ⟨_, rfl, rfl, rfl⟩
theorem witness_FinalPcOfEachInstruction : (∃ t, exec .ret (r0.setSp 16) = .next t) ∧ (∃ t, exec (.ldVxK 0) r0 = .next t) ∧
    (∃ t, exec (.skp 0) (r0.setV 0 15) = .next t) := ⟨⟨_, rfl⟩, ⟨_, rfl⟩, ⟨_, rfl⟩⟩
theorem witness_flag_registers : (0 : Reg) ≠ VF ∧ VF = VF ∧ (0 : Byte) = 0 := by decide
theorem witness_DecimalDigitsAreStored : Memory.wf (r0.setI 0xFFD).mem = true ∧ (r0.setI 0xFFD).I.toNat ≤ 4093 ∧
    Memory.wf (r0.setI 0xFFE).mem = true ∧ 4094 ≤ (r0.setI 0xFFE).I.toNat := by decide
theorem witness_RegistersAreStored : Memory.wf (r0.setI 0xFF0).mem = true ∧ (r0.setI 0xFF0).I.toNat + (15 : Reg).val < 4096 ∧
    Memory.wf (r0.setI 0xFF1).mem = true ∧ 4096 ≤ (r0.setI 0xFF1).I.toNat + (15 : Reg).val := by decide
theorem witness_RegistersAreLoaded : (r0.setI 0xFFF).I.toNat + (0 : Reg).val < 4096 ∧
    4096 ≤ (r0.setI 0xFFF).I.toNat + (1 : Reg).val := by decide
theorem witness_LoadRestoresStoredRegisters : Memory.wf (r0.setI 0xFF0).mem = true ∧
    ∃ t, exec (.storeRegs 15) (r0.setI 0xFF0) = .next t := ⟨rfl, _, rfl⟩
theorem witness_DrawTogglesTheCoveredCells : (Instr.drw 0 1 15).wellFormed = true ∧ (r0.setI 0xFF1).I.toNat + 15 ≤ 4096 ∧
    (Instr.drw 0 1 0).wellFormed = true := by decide
theorem witness_Covers : Covers (bytes 0x300 [0x80] (r0.setI 0x300)) 0 1 1 0 :=
  ⟨0, 0, by decide, by decide, by decide, by decide⟩
theorem witness_DrawPastMemoryFaults : 1 ≤ 15 ∧ 4096 < (r0.setI 0xFF2).I.toNat + 15 := by decide
theorem witness_DrawingTwiceRestoresTheDisplay : (Instr.drw 0 1 1).wellFormed = true ∧ (0 : Reg) ≠ VF ∧ (1 : Reg) ≠ VF ∧
    ∃ t, exec (.drw 0 1 1) (bytes 0x300 [0x80] (r0.setI 0x300)) = .next t := ⟨rfl, by decide, by decide, _, rfl⟩
theorem witness_running : r0.status = .running ∧ Memory.wf r0.mem = true := by decide
theorem witness_KeySkipsReadTheirKey : ((r0.setV 0 15).getV 0).toNat < 16 ∧ 16 ≤ ((r0.setV 0 16).getV 0).toNat := by decide
theorem witness_KeyWaitTakesTheLowestKeyOrRewinds : NoKey r0 ∧ (r0.setKey 15 true).key[(15 : Fin 16)] = true ∧
    (∀ j : Fin 16, j < 15 → (r0.setKey 15 true).key[j] = false) := by
  refine ⟨fun k => ?_, by decide, by decide⟩
  simp [r0, State.reset]
theorem witness_KeyWaitTickChangesNothing : (at' 0xFFE 0xF50A r0).status = .running ∧ (at' 0xFFE 0xF50A r0).pc.toNat + 1 < 4096 ∧
    decodeWord (wordNumber (at' 0xFFE 0xF50A r0)) = some (.ldVxK 5) ∧ (∀ k : Fin 16, (at' 0xFFE 0xF50A r0).key[k] = false) := by
  decide
theorem witness_KeyPressSetsOneFlag : r0.status = .running ∧ 15 < 16 ∧ 16 ≤ 16 := by decide
theorem witness_LoadCopiesTheProgram : (List.replicate 3584 (0 : Byte)).length ≤ 3584 ∧
    3584 < (List.replicate 3585 (0 : Byte)).length :=
  ⟨Nat.le_of_eq List.length_replicate, by rw [List.length_replicate]; decide⟩
theorem witness_WritesFollowTheTable : Memory.wf (r0.setI 0xFF0).mem = true ∧
    (∃ t, exec (.storeRegs 15) (r0.setI 0xFF0) = .next t) ∧ (∃ t, exec (.rnd 0 1) r0 = .next t) := ⟨rfl, ⟨_, rfl⟩, ⟨_, rfl⟩⟩
theorem witness_TimersAreSeparateCounters : (∃ t, exec (.ldDTVx 0) r0 = .next t) ∧ (∃ t, exec (.ldSTVx 0) r0 = .next t) ∧
    (∀ x, Instr.addReg 0 1 ≠ .ldVxDT x) ∧ (∃ t, exec (.addReg 0 1) r0 = .next t) := ⟨⟨_, rfl⟩, ⟨_, rfl⟩, by decide, ⟨_, rfl⟩⟩
theorem witness_KeysAreSetByTheHostOnly : (∃ t, exec (.skp 0) r0 = .next t) ∧ (∃ r t, transact .tick r0 = .done r t) ∧
    (∀ x, Instr.cls ≠ .skp x ∧ Instr.cls ≠ .sknp x ∧ Instr.cls ≠ .ldVxK x) ∧ (∃ t, exec .cls r0 = .next t) :=
  ⟨⟨_, rfl⟩, ⟨_, _, rfl⟩, by decide, ⟨_, rfl⟩⟩
theorem witness_ResetStateIsAsListed : 80 ≤ 0xFFF ∧ 0xFFF < 4096 := by decide
theorem witness_StoreOverTheNextInstructionIsFetched : Memory.wf (v [(1, 0x12), (2, 0x34)] ((r0.setI 0x2FF).setPc 0x300)).mem = true ∧
    (v [(1, 0x12), (2, 0x34)] ((r0.setI 0x2FF).setPc 0x300)).status = .running ∧
    (∃ t, exec (.storeRegs 2) (v [(1, 0x12), (2, 0x34)] ((r0.setI 0x2FF).setPc 0x300)) = .next t) ∧
    (v [(1, 0x12), (2, 0x34)] ((r0.setI 0x2FF).setPc 0x300)).pc.toNat =
      (v [(1, 0x12), (2, 0x34)] ((r0.setI 0x2FF).setPc 0x300)).I.toNat + 1 ∧
    decodeWord (BitVec.ofNat 16 (256 * 0x12 + 0x34)) = some (.jp 0x234) := ⟨rfl, rfl, ⟨_, rfl⟩, rfl, by decide⟩
theorem witness_JumpToSelfIdles : (at' 0x20A 0x120A r0).status = .running ∧ (at' 0x20A 0x120A r0).pc.toNat + 1 < 4096 ∧
    (wordNumber (at' 0x20A 0x120A r0)).toNat = 0x1000 + (at' 0x20A 0x120A r0).pc.toNat := by decide

end Sys2Proof.Tests
end

section
/-! The timers and the keys (spec/10_state.md R31, R32). One law carries both obligations: `exec` commutes with replacing `DT`,
`ST` and the keys by other values (`exec_withTimersKeys`), unless the instruction reads what is replaced. Replacing them by their
own values gives what `exec` leaves in them (`exec_timersKeys`); replacing them by others gives the independence. -/

namespace Sys2Proof.Machine

/-! ## Results under a map -/

/-- `f` on the value that a result answers, if it answers one. -/
def mapNext {α β : Type} (f : α → β) (r : Result α) : Result β := andThen r fun a => .next (f a)

@[simp] theorem mapNext_next {α β : Type} (f : α → β) (a : α) : mapNext f (.next a) = .next (f a) := rfl

@[simp] theorem andThen_mapNext {α β γ : Type} (f : α → β) (r : Result α) (k : β → Result γ) :
    andThen (mapNext f r) k = andThen r fun a => k (f a) := by
  cases r <;> rfl

@[simp] theorem mapNext_andThen {α β γ : Type} (f : β → γ) (r : Result α) (k : α → Result β) :
    mapNext f (andThen r k) = andThen r fun a => mapNext f (k a) := by
  cases r <;> rfl

/-! ## Other timers and keys in a state -/

/-- `s` with other timers and other key flags. -/
def State.withTimersKeys (dt st : Byte) (keys : Vector Bool 16) (s : State) : State := { s with DT := dt, ST := st, key := keys }

/-- Replacing the timers and the keys changes those parts only. -/
theorem samePart_withTimersKeys {dt st : Byte} {keys : Vector Bool 16} {s : State} (p : Part) (hDT : p = .DT → dt = s.DT)
    (hST : p = .ST → st = s.ST) (hkey : ∀ k, p = .key k → keys = s.key) : SamePart s (s.withTimersKeys dt st keys) p := by
  cases p with
  | DT => exact hDT rfl
  | ST => exact hST rfl
  | key k => exact congrArg (·[k]) (hkey k rfl)
  | _ => rfl

section
variable (dt st : Byte) (keys : Vector Bool 16) (s : State)

theorem memWrite_withTimersKeys (a : Nat) (b : Byte) :
    memWrite (s.withTimersKeys dt st keys) a b = mapNext (State.withTimersKeys dt st keys) (memWrite s a b) := by
  by_cases h : a < 4096
  · rw [memWrite_inside h, memWrite_inside h]; rfl
  · rw [memWrite_outside (by omega), memWrite_outside (by omega)]; rfl

theorem storeBytes_withTimersKeys (bs : List Byte) (a : Nat) :
    storeBytes bs a (s.withTimersKeys dt st keys) = mapNext (State.withTimersKeys dt st keys) (storeBytes bs a s) := by
  induction bs generalizing a s with
  | nil => rfl
  | cons b bs ih => simp only [storeBytes, memWrite_withTimersKeys, andThen_mapNext, mapNext_andThen, ih]

theorem loadBytes_withTimersKeys (n k a : Nat) :
    loadBytes n k a (s.withTimersKeys dt st keys) = mapNext (State.withTimersKeys dt st keys) (loadBytes n k a s) := by
  induction n generalizing k s with
  | zero => rfl
  | succ n ih =>
    have hset (b : Byte) : (if h : k < 16 then (s.withTimersKeys dt st keys).setV ⟨k, h⟩ b else s.withTimersKeys dt st keys) =
        State.withTimersKeys dt st keys (if h : k < 16 then s.setV ⟨k, h⟩ b else s) := by
      split <;> rfl
    simp only [loadBytes, mapNext_andThen, hset, ih]
    rfl

theorem push_withTimersKeys (v : Word) :
    push v (s.withTimersKeys dt st keys) = mapNext (State.withTimersKeys dt st keys) (push v s) := by
  obtain ⟨h, hp⟩ | ⟨h, hp⟩ := push_cases v s
  · rw [hp]; exact push_room (s := s.withTimersKeys dt st keys) h
  · rw [hp]; exact push_full h

theorem pop_withTimersKeys :
    pop (s.withTimersKeys dt st keys) = mapNext (fun r => (r.1, r.2.withTimersKeys dt st keys)) (pop s) := by
  obtain ⟨h0, h, hp⟩ | ⟨h, hp⟩ | ⟨h, hp⟩ := pop_cases s
  · rw [hp]; exact pop_some (s := s.withTimersKeys dt st keys) h0 h
  · rw [hp]; exact pop_empty h
  · rw [hp]; exact pop_illegal h

theorem drawRows_withTimersKeys (x0 y0 n row : Nat) (acc : Display × Bool) :
    drawRows (s.withTimersKeys dt st keys) x0 y0 n row acc = drawRows s x0 y0 n row acc := by
  induction n generalizing row acc with
  | zero => rfl
  | succ n ih => simp only [drawRows, ih]; rfl

end

/-! ## Instructions and the timers and keys -/

/-- What `DT` holds after an instruction that found `dt` in it: only FX15 writes it (R31). -/
def dtAfter (i : Instr) (s : State) (dt : Byte) : Byte :=
  match i with
  | .ldDTVx x => s.getV x
  | _ => dt

/-- What `ST` holds after an instruction that found `st` in it: only FX18 writes it (R31). -/
def stAfter (i : Instr) (s : State) (st : Byte) : Byte :=
  match i with
  | .ldSTVx x => s.getV x
  | _ => st

theorem dtAfter_cases (i : Instr) (s : State) (dt : Byte) :
    dtAfter i s dt = dt ∨ ∃ x, i = .ldDTVx x ∧ dtAfter i s dt = s.getV x := by
  cases i with
  | ldDTVx x => exact .inr ⟨x, rfl, rfl⟩
  | _ => exact .inl rfl

theorem stAfter_cases (i : Instr) (s : State) (st : Byte) :
    stAfter i s st = st ∨ ∃ x, i = .ldSTVx x ∧ stAfter i s st = s.getV x := by
  cases i with
  | ldSTVx x => exact .inr ⟨x, rfl, rfl⟩
  | _ => exact .inl rfl

/-- An instruction ends the same way with other timers and keys, which stay but for what FX15 and FX18 write. `DT` may be
another one unless FX07 reads it, the keys unless EX9E, EXA1 or FX0A reads them. -/
theorem exec_withTimersKeys (i : Instr) (s : State) (dt st : Byte) (keys : Vector Bool 16)
    (hDT : ∀ x, i = .ldVxDT x → dt = s.DT) (hkey : ∀ x, i = .skp x ∨ i = .sknp x ∨ i = .ldVxK x → keys = s.key) :
    exec i (s.withTimersKeys dt st keys) =
      mapNext (State.withTimersKeys (dtAfter i s dt) (stAfter i s st) keys) (exec i s) := by
  cases i with
  | ret =>
    simp only [exec, execRet, pop_withTimersKeys, andThen_mapNext, mapNext_andThen]
    rfl
  | call nnn =>
    simp only [exec, execCall, push_withTimersKeys, andThen_mapNext, mapNext_andThen]
    rfl
  | drw x y n =>
    simp only [exec, execDrw, drawRows_withTimersKeys, mapNext_andThen]
    rfl
  | ldBVx x => exact storeBytes_withTimersKeys ..
  | storeRegs x => exact storeBytes_withTimersKeys ..
  | loadRegs x => exact loadBytes_withTimersKeys ..
  | seByte x nn | sneByte x nn =>
    simp only [exec, execSeByte, execSneByte, skipIf_eq]
    rfl
  | seReg x y | sneReg x y =>
    simp only [exec, execSeReg, execSneReg, skipIf_eq]
    rfl
  | ldVxDT x =>
    obtain rfl := hDT x rfl
    rfl
  | skp x =>
    obtain rfl := hkey x (.inl rfl)
    simp only [exec, execSkp, skipIf_eq, mapNext_andThen]
    rfl
  | sknp x =>
    obtain rfl := hkey x (.inr (.inl rfl))
    simp only [exec, execSknp, skipIf_eq, mapNext_andThen]
    rfl
  | ldVxK x =>
    obtain rfl := hkey x (.inr (.inr rfl))
    have hscan : firstKey (s.withTimersKeys dt st s.key) = firstKey s := rfl
    simp only [exec, execLdVxK, hscan]
    cases firstKey s <;> rfl
  | _ => rfl

/-- What an instruction that completes leaves in the timers and the keys. -/
theorem exec_timersKeys {i : Instr} {s t : State} (h : exec i s = .next t) :
    t.DT = dtAfter i s s.DT ∧ t.ST = stAfter i s s.ST ∧ t.key = s.key := by
  have hself := exec_withTimersKeys i s s.DT s.ST s.key (fun _ _ => rfl) (fun _ _ => rfl)
  have ht : t = t.withTimersKeys (dtAfter i s s.DT) (stAfter i s s.ST) s.key := by
    rw [show s.withTimersKeys s.DT s.ST s.key = s from rfl, h, mapNext_next] at hself
    exact Host.Outcome.next.inj hself
  rw [ht]
  exact ⟨rfl, rfl, rfl⟩

/-- With other timers and keys that it does not read an instruction completes too, and the results agree in every part that was
the same before. -/
theorem exec_completes_withTimersKeys {i : Instr} {s t : State} {dt st : Byte} {keys : Vector Bool 16}
    (h : exec i s = .next t) (hDT : ∀ x, i = .ldVxDT x → dt = s.DT)
    (hkey : ∀ x, i = .skp x ∨ i = .sknp x ∨ i = .ldVxK x → keys = s.key) :
    Completes i (s.withTimersKeys dt st keys) fun t' => ∀ p : Part, (p = .DT → dt = s.DT) → (p = .ST → st = s.ST) →
      (∀ k, p = .key k → keys = s.key) → SamePart t t' p := by
  obtain ⟨htDT, htST, htkey⟩ := exec_timersKeys h
  refine ⟨_, by rw [exec_withTimersKeys i s dt st keys hDT hkey, h, mapNext_next], fun p hpDT hpST hpkey => ?_⟩
  apply samePart_withTimersKeys
  · exact fun hp => by rw [htDT, hpDT hp]
  · exact fun hp => by rw [htST, hpST hp]
  · exact fun k hp => by rw [htkey, hpkey k hp]

/-! ## Transactions and the timers and keys -/

theorem countDown_toNat (b : Byte) : (countDown b).toNat = b.toNat - 1 := by
  unfold countDown
  split <;> bv_omega

theorem settle_eq_done {s t : State} {r : Result State} {reply : Reply} :
    settle s r = .done reply t ↔ reply = .nothing ∧ r = .next t := by
  cases r <;> simp [settle, eq_comm]

theorem whenRunning_eq_done {s t : State} {r : TransactionResult} {reply : Reply} :
    whenRunning s r = .done reply t ↔ s.status = .running ∧ r = .done reply t := by
  unfold whenRunning
  split <;> simp [*]

theorem whenRunning_of_running {s : State} (h : s.status = .running) (r : TransactionResult) : whenRunning s r = r := by
  simp [whenRunning, h]

/-- A load that completes has changed memory only. -/
theorem loadProgram_eq_next {bytes : List Byte} {s t : State} (h : loadProgram bytes s = .next t) :
    t = { s with mem := Memory.putBytes s.mem 0x200 bytes } := by
  unfold loadProgram at h
  split at h
  · cases h
  · exact (Host.Outcome.next.inj h).symm

theorem pressKey_eq_next {k : Nat} {pressed : Bool} {s t : State} (h : pressKey k pressed s = .next t) :
    ∃ hk : k < 16, t = s.setKey ⟨k, hk⟩ pressed := by
  unfold pressKey at h
  split at h
  · exact ⟨‹_›, (Host.Outcome.next.inj h).symm⟩
  · cases h

/-- A step writes no key flag. -/
theorem step_key {s t : State} (h : step s = .next t) : t.key = s.key := by
  obtain ⟨-, -, i, -, hexec⟩ := step_eq_next.mp h
  exact (exec_timersKeys hexec).2.2

/-- A transaction that completes and is no `create` or `reset` leaves the timers, unless it is `tick` or `tick_timers`, and the
keys, unless it is `key_press`. -/
theorem transact_timersKeys {tr : Transaction} {s t : State} {r : Reply} (h : transact tr s = .done r t)
    (hcreate : tr ≠ .create) (hreset : tr ≠ .reset) :
    (tr ≠ .tick → tr ≠ .tickTimers → t.DT = s.DT ∧ t.ST = s.ST) ∧
      ((∀ k pressed, tr ≠ .keyPress k pressed) → t.key = s.key) := by
  cases tr with
  | create => exact absurd rfl hcreate
  | reset => exact absurd rfl hreset
  | load bytes =>
    rw [loadProgram_eq_next (settle_eq_done.mp (whenRunning_eq_done.mp h).2).2]
    exact ⟨fun _ _ => ⟨rfl, rfl⟩, fun _ => rfl⟩
  | tick => exact ⟨fun htick _ => absurd rfl htick, fun _ => step_key (settle_eq_done.mp h).2⟩
  | tickTimers =>
    cases (whenRunning_eq_done.mp h).2
    exact ⟨fun _ htimers => absurd rfl htimers, fun _ => rfl⟩
  | keyPress k pressed =>
    obtain ⟨_, rfl⟩ := pressKey_eq_next (settle_eq_done.mp (whenRunning_eq_done.mp h).2).2
    exact ⟨fun _ _ => ⟨rfl, rfl⟩, fun hpress => absurd rfl (hpress k pressed)⟩
  | getDisplay | readSoundTimer =>
    cases (whenRunning_eq_done.mp h).2
    exact ⟨fun _ _ => ⟨rfl, rfl⟩, fun _ => rfl⟩

/-- Settles O53: `exec` commutes with replacing a timer that the instruction does not read. -/
theorem timersAreSeparateCounters : Obligations.TimersAreSeparateCounters := by
  refine ⟨fun i s t h => ?_, fun i s t b h => ?_, fun i s t b hi h => ?_, fun s hs => ?_, fun tr s t r h => ?_⟩
  · obtain ⟨hDT, hST, -⟩ := exec_timersKeys h
    rw [hDT, hST]
    exact ⟨dtAfter_cases i s s.DT, stAfter_cases i s s.ST⟩
  · obtain ⟨t', ht', hsame⟩ := exec_completes_withTimersKeys (st := b) h (fun _ _ => rfl) (fun _ _ => rfl)
    exact ⟨t', ht', fun p hp => hsame p (fun _ => rfl) (absurd · hp) (fun _ _ => rfl)⟩
  · obtain ⟨t', ht', hsame⟩ := exec_completes_withTimersKeys (dt := b) h (fun x hx => absurd hx (hi x)) (fun _ _ => rfl)
    exact ⟨t', ht', fun p hp => hsame p (absurd · hp) (fun _ => rfl) (fun _ _ => rfl)⟩
  · exact ⟨_, _, whenRunning_of_running hs _, countDown_toNat s.DT, countDown_toNat s.ST⟩
  · by_contra hnot
    simp only [not_or] at hnot
    obtain ⟨hcreate, hreset, htick, htimers, hkept⟩ := hnot
    exact hkept ((transact_timersKeys h hcreate hreset).1 htick htimers)

/-- Settles O54: `exec` keeps the keys and commutes with replacing them where the instruction does not read them. -/
theorem keysAreSetByTheHostOnly : Obligations.KeysAreSetByTheHostOnly := by
  refine ⟨fun i s t h => (exec_timersKeys h).2.2, fun tr s t r h => ?_, fun i s t keys hi h => ?_⟩
  · by_contra hnot
    simp only [not_or, not_exists] at hnot
    obtain ⟨hcreate, hreset, hpress, hkept⟩ := hnot
    exact hkept ((transact_timersKeys h hcreate hreset).2 hpress)
  · have hunread (x : Reg) : ¬ (i = .skp x ∨ i = .sknp x ∨ i = .ldVxK x) := by
      simpa only [not_or] using hi x
    obtain ⟨t', ht', hsame⟩ :=
      exec_completes_withTimersKeys (keys := keys) h (fun _ _ => rfl) (fun x hx => absurd hx (hunread x))
    exact ⟨t', ht', fun p hp => hsame p (fun _ => rfl) (fun _ => rfl) (fun k hk => absurd hk (hp k))⟩

end Sys2Proof.Machine
end

section
/-! The instruction encoding (spec/30_encoding.md). `decodeWord` and `encode` are inverse to each other (`decodeWord_encode`,
`encode_of_decodeWord`), and a word with the fixed bits of a row of the opcode table decodes to an instruction of that row
(`decodedRow_of_rowMatches`). -/

namespace Sys2Proof

/-! ## The fields of a word that a format makes -/

section
variable (d : Nibble) (x y : Reg) (n : Nibble) (nn : Byte) (nnn : Word)

@[simp] theorem fieldD1_formatNNN : fieldD1 (formatNNN d nnn) = d := by
  apply BitVec.eq_of_toNat_eq
  rw [fieldD1_toNat, formatNNN_toNat]
  omega

@[simp] theorem fieldNNN_formatNNN (h : nnn.toNat < 4096) : fieldNNN (formatNNN d nnn) = nnn := by
  apply BitVec.eq_of_toNat_eq
  rw [fieldNNN_toNat, formatNNN_toNat]
  omega

@[simp] theorem fieldD1_formatXNN : fieldD1 (formatXNN d x nn) = d := by
  apply BitVec.eq_of_toNat_eq
  rw [fieldD1_toNat, formatXNN_toNat]
  omega

@[simp] theorem fieldX_formatXNN : fieldX (formatXNN d x nn) = x := by
  apply Fin.ext
  rw [fieldX_val, formatXNN_toNat]
  omega

@[simp] theorem fieldNN_formatXNN : fieldNN (formatXNN d x nn) = nn := by
  apply BitVec.eq_of_toNat_eq
  rw [fieldNN_toNat, formatXNN_toNat]
  omega

@[simp] theorem fieldD1_formatXYN : fieldD1 (formatXYN d x y n) = d := by
  apply BitVec.eq_of_toNat_eq
  rw [fieldD1_toNat, formatXYN_toNat]
  omega

@[simp] theorem fieldX_formatXYN : fieldX (formatXYN d x y n) = x := by
  apply Fin.ext
  rw [fieldX_val, formatXYN_toNat]
  omega

@[simp] theorem fieldY_formatXYN : fieldY (formatXYN d x y n) = y := by
  apply Fin.ext
  rw [fieldY_val, formatXYN_toNat]
  omega

@[simp] theorem fieldD4_formatXYN : fieldD4 (formatXYN d x y n) = n := by
  apply BitVec.eq_of_toNat_eq
  rw [fieldD4_toNat, formatXYN_toNat]
  omega

@[simp] theorem fieldN_formatXYN : fieldN (formatXYN d x y n) = n.toNat := by
  rw [fieldN, fieldD4_formatXYN]

end

/-! ## The word that a format makes of a word's own fields -/

section
variable {w : Word} {d : Nibble}

theorem formatNNN_fields (hd : (fieldD1 w).toNat = d.toNat) : formatNNN d (fieldNNN w) = w := by
  apply BitVec.eq_of_toNat_eq
  rw [fieldD1_toNat] at hd
  rw [formatNNN_toNat, fieldNNN_toNat]
  omega

theorem formatXNN_fields {nn : Byte} (hd : (fieldD1 w).toNat = d.toNat) (hnn : (fieldNN w).toNat = nn.toNat) :
    formatXNN d (fieldX w) nn = w := by
  apply BitVec.eq_of_toNat_eq
  rw [fieldD1_toNat] at hd
  rw [fieldNN_toNat] at hnn
  rw [formatXNN_toNat, fieldX_val]
  omega

theorem formatXYN_fields {n : Nibble} (hd : (fieldD1 w).toNat = d.toNat) (hn : (fieldD4 w).toNat = n.toNat) :
    formatXYN d (fieldX w) (fieldY w) n = w := by
  apply BitVec.eq_of_toNat_eq
  rw [fieldD1_toNat] at hd
  rw [fieldD4_toNat] at hn
  rw [formatXYN_toNat, fieldX_val, fieldY_val]
  omega

end

/-! ## The decoder and the encoder are inverse to each other -/

/-- The decoder reads back every instruction that fits its format. -/
theorem decodeWord_encode {i : Instr} (h : i.wellFormed = true) : decodeWord (encode i) = some i := by
  cases i with
  | nop | cls | ret => rfl
  | jp nnn | call nnn | ldI nnn | jpV0 nnn =>
    have hnnn : nnn.toNat < 4096 := of_decide_eq_true h
    simp [encode, decodeWord, hnnn]
  | seByte x nn | sneByte x nn | ldByte x nn | addByte x nn | rnd x nn => simp [encode, decodeWord]
  | drw x y n =>
    have hn : n < 16 := of_decide_eq_true h
    simp [encode, decodeWord, Nat.mod_eq_of_lt hn]
  | seReg x y | sneReg x y => simp [encode, decodeWord]
  | skp x | sknp x => simp [encode, decodeWord, decodeDE]
  | ldReg x y | orReg x y | andReg x y | xorReg x y | addReg x y | subReg x y | shr x y | subnReg x y | shl x y =>
    simp [encode, decodeWord, decodeD8]
  | ldVxDT x | ldVxK x | ldDTVx x | ldSTVx x | addIVx x | ldFVx x | ldBVx x | storeRegs x | loadRegs x =>
    simp [encode, decodeWord, decodeDF]

theorem encode_of_decodeD0 {w : Word} {i : Instr} (h : decodeD0 w = some i) : encode i = w := by
  unfold decodeD0 at h
  split_ifs at h with h1 h2 h3 <;> cases h
  · exact h1.symm
  · exact h2.symm
  · exact h3.symm

theorem encode_of_decodeD8 {w : Word} {i : Instr} (hd : (fieldD1 w).toNat = 0x8) (h : decodeD8 w = some i) :
    encode i = w := by
  unfold decodeD8 at h
  split at h <;> cases h <;> exact formatXYN_fields hd ‹_›

theorem encode_of_decodeDE {w : Word} {i : Instr} (hd : (fieldD1 w).toNat = 0xE) (h : decodeDE w = some i) :
    encode i = w := by
  unfold decodeDE at h
  split at h <;> cases h <;> exact formatXNN_fields hd ‹_›

theorem encode_of_decodeDF {w : Word} {i : Instr} (hd : (fieldD1 w).toNat = 0xF) (h : decodeDF w = some i) :
    encode i = w := by
  unfold decodeDF at h
  split at h <;> cases h <;> exact formatXNN_fields hd ‹_›

/-- The encoder gives back every legal word. -/
theorem encode_of_decodeWord {w : Word} {i : Instr} (h : decodeWord w = some i) : encode i = w := by
  unfold decodeWord at h
  split at h
  case h_1 => exact encode_of_decodeD0 h
  case h_6 | h_10 =>
    split_ifs at h with hn
    cases h
    exact formatXYN_fields ‹_› hn
  case h_9 => exact encode_of_decodeD8 ‹_› h
  case h_14 => cases h; exact formatXYN_fields ‹_› (by simp [fieldN])
  case h_15 => exact encode_of_decodeDE ‹_› h
  case h_16 => exact encode_of_decodeDF ‹_› h
  case h_17 => cases h
  case h_2 | h_3 | h_11 | h_12 => cases h; exact formatNNN_fields ‹_›
  case h_4 | h_5 | h_7 | h_8 | h_13 => cases h; exact formatXNN_fields ‹_› rfl

/-! ## The rows of the opcode table -/

/-- The word of an instruction has the fixed bits of its row (R97). -/
theorem encode_fixedBits (i : Instr) : Laws.FixedBits.Statement i := by
  cases i with
  | nop | cls | ret => rfl
  | jp nnn | call nnn | ldI nnn | jpV0 nnn => exact Laws.formatNNN_fixed _ nnn
  | seByte x nn | sneByte x nn | ldByte x nn | addByte x nn | rnd x nn => exact Laws.formatXNN_fixed _ x nn
  | drw x y n => exact Laws.formatXYN_fixed _ x y _
  | seReg x y | sneReg x y | ldReg x y | orReg x y | andReg x y | xorReg x y | addReg x y | subReg x y | shr x y
  | subnReg x y | shl x y => exact Laws.formatXY_fixed _ x y _
  | skp x | sknp x | ldVxDT x | ldVxK x | ldDTVx x | ldSTVx x | addIVx x | ldFVx x | ldBVx x | storeRegs x
  | loadRegs x => exact Laws.formatX_fixed _ x _

/-- The row of the instruction that a word decodes to. -/
def decodedRow (w : Word) : Option OpcodeRow := (decodeWord w).map rowOf

section
variable {w : Word} {r : OpcodeRow}

/-- A legal word has the fixed bits of its row. -/
theorem rowMatches_of_decodeWord {i : Instr} (h : decodeWord w = some i) : rowMatches w (rowOf i) = true := by
  have hfixed : encode i &&& (rowOf i).mask = (rowOf i).pattern := encode_fixedBits i
  rw [encode_of_decodeWord h] at hfixed
  exact decide_eq_true hfixed

/-- A word has the fields of the row's pattern that the row fixes. -/
theorem extractLsb'_eq_of_rowMatches (h : rowMatches w r = true) {start len : Nat}
    (hmask : r.mask.extractLsb' start len = BitVec.allOnes len) :
    w.extractLsb' start len = r.pattern.extractLsb' start len := by
  rw [← of_decide_eq_true h, BitVec.extractLsb'_and, hmask, BitVec.and_allOnes]

theorem eq_pattern_of_rowMatches (h : rowMatches w r = true) (hmask : r.mask = BitVec.allOnes 16) : w = r.pattern := by
  rw [← of_decide_eq_true h, hmask, BitVec.and_allOnes]

/-- The bits that the table fixes beside `d1`, by `d1` (the last column of R98's table). -/
theorem opcodeRows_mask : ∀ r ∈ opcodeRows, fieldD1 r.mask = BitVec.allOnes 4 ∧
    ((fieldD1 r.pattern).toNat = 0x0 → r.mask = BitVec.allOnes 16) ∧
    ((fieldD1 r.pattern).toNat ∈ [0x5, 0x8, 0x9] → fieldD4 r.mask = BitVec.allOnes 4) ∧
    ((fieldD1 r.pattern).toNat ∈ [0xE, 0xF] → fieldNN r.mask = BitVec.allOnes 8) := by decide

/-- The pattern of a row, read as a word, decodes to an instruction of that row. -/
theorem decodedRow_pattern : ∀ r ∈ opcodeRows, decodedRow r.pattern = some r := by decide

theorem map_rowOf_decodeD8_congr {w' : Word} (h : fieldD4 w = fieldD4 w') :
    (decodeD8 w).map rowOf = (decodeD8 w').map rowOf := by
  unfold decodeD8
  rw [h]
  split <;> rfl

theorem map_rowOf_decodeDE_congr {w' : Word} (h : fieldNN w = fieldNN w') :
    (decodeDE w).map rowOf = (decodeDE w').map rowOf := by
  unfold decodeDE
  rw [h]
  split <;> rfl

theorem map_rowOf_decodeDF_congr {w' : Word} (h : fieldNN w = fieldNN w') :
    (decodeDF w).map rowOf = (decodeDF w').map rowOf := by
  unfold decodeDF
  rw [h]
  split <;> rfl

/-- A word with the fixed bits of a row decodes to an instruction of that row: the decoder looks at no other bit to choose the
row, so that the row is the one of the row's own pattern. -/
theorem decodedRow_of_rowMatches (hr : r ∈ opcodeRows) (h : rowMatches w r = true) : decodedRow w = some r := by
  obtain ⟨hmask, hmask0, hmaskD4, hmaskNN⟩ := opcodeRows_mask r hr
  have hd : fieldD1 w = fieldD1 r.pattern := extractLsb'_eq_of_rowMatches h hmask
  have hD4 (hmajor : (fieldD1 r.pattern).toNat ∈ [0x5, 0x8, 0x9]) : fieldD4 w = fieldD4 r.pattern :=
    extractLsb'_eq_of_rowMatches h (hmaskD4 hmajor)
  have hNN (hmajor : (fieldD1 r.pattern).toNat ∈ [0xE, 0xF]) : fieldNN w = fieldNN r.pattern :=
    extractLsb'_eq_of_rowMatches h (hmaskNN hmajor)
  rw [← decodedRow_pattern r hr]
  unfold decodedRow decodeWord
  rw [hd]
  split
  case h_1 hmajor => rw [eq_pattern_of_rowMatches h (hmask0 hmajor)]
  case h_6 hmajor | h_10 hmajor =>
    rw [fieldN, fieldN, hD4 (by simp [hmajor])]
    split <;> rfl
  case h_9 hmajor => exact map_rowOf_decodeD8_congr (hD4 (by simp [hmajor]))
  case h_15 hmajor => exact map_rowOf_decodeDE_congr (hNN (by simp [hmajor]))
  case h_16 hmajor => exact map_rowOf_decodeDF_congr (hNN (by simp [hmajor]))
  all_goals rfl

end

/-- Settles O3: a legal word has the fixed bits of its row (`rowMatches_of_decodeWord`), and a word with the fixed bits of a row
decodes to an instruction of that row (`decodedRow_of_rowMatches`). -/
theorem decodeFollowsTheOpcodeTable : Obligations.DecodeFollowsTheOpcodeTable := by
  have hmem (i : Instr) : rowOf i ∈ opcodeRows := List.getElem_mem _
  refine ⟨fun w i h => ⟨hmem i, rowMatches_of_decodeWord h⟩, fun w r hr h => ?_, fun w hnone => ?_,
    fun w r r' hr hr' h h' => ?_⟩
  · exact Option.map_eq_some_iff.mp (decodedRow_of_rowMatches hr h)
  · refine Option.eq_none_iff_forall_not_mem.mpr fun i h => ?_
    exact absurd (rowMatches_of_decodeWord h) (by simp [hnone _ (hmem i)])
  · exact Option.some.inj ((decodedRow_of_rowMatches hr h).symm.trans (decodedRow_of_rowMatches hr' h'))

/-! ## Words written as numbers -/

section
variable {i : Instr} {d : Nibble} {x y : Reg} {base : Nat}

/-- A number that is the word of an instruction decodes to it. -/
theorem decodeWord_ofNat {n : Nat} (hi : i.wellFormed = true) (hn : (encode i).toNat = n) :
    decodeWord (BitVec.ofNat 16 n) = some i := by
  rw [← hn, BitVec.ofNat_toNat, BitVec.setWidth_eq, decodeWord_encode hi]

theorem decodeWord_ofNat_formatNNN {a : Nat} (ha : a < 0x1000) (hi : i.wellFormed = fitsAddr (BitVec.ofNat 16 a))
    (hword : encode i = formatNNN d (BitVec.ofNat 16 a)) (hbase : base = 0x1000 * d.toNat) :
    decodeWord (BitVec.ofNat 16 (base + a)) = some i := by
  have hmod : (BitVec.ofNat 16 a).toNat = a := by rw [BitVec.toNat_ofNat]; omega
  apply decodeWord_ofNat
  · rw [hi, fitsAddr, hmod]; exact decide_eq_true ha
  · rw [hword, formatNNN_toNat, hmod]; omega

theorem decodeWord_ofNat_formatXNN {nn : Byte} (hi : i.wellFormed = true) (hword : encode i = formatXNN d x nn)
    (hbase : base = 0x1000 * d.toNat) : decodeWord (BitVec.ofNat 16 (base + 0x100 * x.val + nn.toNat)) = some i := by
  apply decodeWord_ofNat hi
  rw [hword, formatXNN_toNat]
  omega

theorem decodeWord_ofNat_formatX {nn : Byte} (hi : i.wellFormed = true) (hword : encode i = formatXNN d x nn)
    (hbase : base = 0x1000 * d.toNat + nn.toNat) : decodeWord (BitVec.ofNat 16 (base + 0x100 * x.val)) = some i := by
  apply decodeWord_ofNat hi
  rw [hword, formatXNN_toNat]
  omega

theorem decodeWord_ofNat_formatXY {n : Nibble} (hi : i.wellFormed = true) (hword : encode i = formatXYN d x y n)
    (hbase : base = 0x1000 * d.toNat + n.toNat) :
    decodeWord (BitVec.ofNat 16 (base + 0x100 * x.val + 0x10 * y.val)) = some i := by
  apply decodeWord_ofNat hi
  rw [hword, formatXYN_toNat]
  omega

end

theorem decodeWord_ofNat_drw (x y : Reg) {n : Nat} (hn : n < 0x10) :
    decodeWord (BitVec.ofNat 16 (0xD000 + 0x100 * x.val + 0x10 * y.val + n)) = some (.drw x y n) := by
  refine decodeWord_ofNat (i := .drw x y n) (decide_eq_true hn) ?_
  rw [encode, formatXYN_toNat, BitVec.toNat_ofNat, BitVec.toNat_ofNat]
  omega

/-- Settles O4: a number of a format is the word that the encoder makes (`decodeWord_ofNat_formatNNN` and so on), and the
decoder reads it back. -/
theorem fieldsStandWhereTheFormatsSay : Obligations.FieldsStandWhereTheFormatsSay := by
  refine ⟨⟨rfl, rfl, rfl⟩, fun a ha => ?_, fun x nn => ?_, fun x y => ?_, fun x y n hn => decodeWord_ofNat_drw x y hn,
    fun x => ?_⟩
  · exact ⟨decodeWord_ofNat_formatNNN ha rfl rfl rfl, decodeWord_ofNat_formatNNN ha rfl rfl rfl,
      decodeWord_ofNat_formatNNN ha rfl rfl rfl, decodeWord_ofNat_formatNNN ha rfl rfl rfl⟩
  · refine ⟨?_, ?_, ?_, ?_, ?_⟩ <;> exact decodeWord_ofNat_formatXNN rfl rfl rfl
  · refine ⟨?_, ?_, ?_, ?_, ?_, ?_, ?_, ?_, ?_, ?_, ?_⟩ <;> exact decodeWord_ofNat_formatXY rfl rfl rfl
  · refine ⟨?_, ?_, ?_, ?_, ?_, ?_, ?_, ?_, ?_, ?_, ?_⟩ <;> exact decodeWord_ofNat_formatX rfl rfl rfl

/-! ## The legal words -/

theorem decodeD0_isSome (w : Word) : (decodeD0 w).isSome = true ↔ w.toNat ∈ [0x0000, 0x00E0, 0x00EE] := by
  unfold decodeD0
  split_ifs <;> simp_all [BitVec.toNat_eq]

theorem decodeD8_isSome (w : Word) :
    (decodeD8 w).isSome = true ↔ w.toNat % 0x10 ∈ [0, 1, 2, 3, 4, 5, 6, 7, 0xE] := by
  rw [← fieldD4_toNat, decodeD8]
  split <;> simp_all

theorem decodeDE_isSome (w : Word) : (decodeDE w).isSome = true ↔ w.toNat % 0x100 ∈ [0x9E, 0xA1] := by
  rw [← fieldNN_toNat, decodeDE]
  split <;> simp_all

theorem decodeDF_isSome (w : Word) : (decodeDF w).isSome = true ↔
    w.toNat % 0x100 ∈ [0x07, 0x0A, 0x15, 0x18, 0x1E, 0x29, 0x33, 0x55, 0x65] := by
  rw [← fieldNN_toNat, decodeDF]
  split <;> simp_all

/-- Settles O5: the decoder's branch for each major opcode, and when that branch answers an instruction. -/
theorem legalWordsOfEachMajorOpcode : Obligations.LegalWordsOfEachMajorOpcode := by
  intro w
  rw [← fieldD1_toNat]
  refine ⟨fun h => ?_, fun h => ?_, fun h => ?_, fun h => ?_, fun h => ?_, fun h => ?_⟩
  · obtain h | h := h <;> simp [decodeWord, h, fieldN_eq]
  · rw [← decodeD0_isSome]
    simp only [decodeWord, h]
  · rw [← decodeD8_isSome]
    simp only [decodeWord, h]
  · rw [← decodeDE_isSome]
    simp only [decodeWord, h]
  · rw [← decodeDF_isSome]
    simp only [decodeWord, h]
  · simp only [List.mem_cons, List.not_mem_nil, or_false] at h
    obtain h | h | h | h | h | h | h | h | h | h := h <;> simp [decodeWord, h]

end Sys2Proof
end

section
/-! Jumps and skips (spec/40_control.md R133, R134, R136 to R142). Each of these instructions answers the state with another `pc`
(`completes_setPc`); what is left of each statement is which one. -/

namespace Sys2Proof.Machine

/-- A write to `pc` changes `pc` only. -/
theorem changesOnly_setPc (w : Word) (s : State) : ChangesOnly (fun p => p = .pc) s (s.setPc w) := by
  intro p hp
  cases p with
  | pc => exact absurd rfl hp
  | _ => rfl

/-- An instruction that answers the state with another `pc` completes there and changes nothing else. -/
theorem completes_setPc {i : Instr} {s : State} {w : Word} (h : exec i s = .next (s.setPc w)) :
    Completes i s fun t => t.pc = w ∧ ChangesOnly (fun p => p = .pc) s t :=
  ⟨s.setPc w, h, rfl, changesOnly_setPc w s⟩

/-- An instruction that answers a conditional skip moves `pc` on by 2 where the condition holds, and changes nothing else (R133). -/
theorem completes_skipIf {i : Instr} {s : State} {c : Prop} [Decidable c]
    (h : exec i s = .next (skipIf (decide c) s)) :
    Completes i s fun t => t.pc = (if c then s.pc + 2 else s.pc) ∧ ChangesOnly (fun p => p = .pc) s t := by
  rw [skipIf_eq] at h
  simpa only [decide_eq_true_eq] using completes_setPc h

/-- The target of BNNN does not wrap: a 12-bit address and a byte add up to less than 2^16 (R142). -/
theorem indexedTarget_toNat {nnn : Word} (h : nnn.toNat < 4096) (v : Byte) :
    (indexedTarget nnn v).toNat = nnn.toNat + v.toNat := by
  rw [indexedTarget, BitVec.toNat_add, BitVec.toNat_setWidth]
  omega

/-- Two zero bytes make the word that decodes to NOP (R64, R99). -/
theorem decodeWord_wordAt_of_zeros {s : State} {a : Nat} (h : s.byteAt a = 0) (h' : s.byteAt (a + 1) = 0) :
    decodeWord (s.wordAt a) = some .nop := by
  rw [State.wordAt, h, h']
  rfl

/-- Settles O18: the fetch of two zero bytes gives NOP and moves `pc` on by 2, and NOP keeps that state. -/
theorem nopOnlyAdvancesPc : Obligations.NopOnlyAdvancesPc := by
  refine ⟨fun s => rfl, fun s hrun hpc hhi hlo => ?_⟩
  exact step_eq_next.mpr ⟨hrun, hpc, .nop, decodeWord_wordAt_of_zeros hhi hlo, rfl⟩

/-- Settles O19: JP is a write of its address to `pc`. -/
theorem jumpSetsPc : Obligations.JumpSetsPc := fun _ _ => completes_setPc rfl

/-- Settles O20: JP V0 writes the indexed target to `pc`, and that sum does not wrap. -/
theorem indexedJumpAddsV0 : Obligations.IndexedJumpAddsV0 := by
  intro nnn s hwf
  have hnnn : nnn.toNat < 4096 := of_decide_eq_true hwf
  obtain ⟨t, hexec, hpc, hframe⟩ : Completes (.jpV0 nnn) s fun t =>
      t.pc = indexedTarget nnn (s.getV 0) ∧ ChangesOnly (fun p => p = .pc) s t := completes_setPc rfl
  have hsum : t.pc.toNat = nnn.toNat + (s.getV 0).toNat := by rw [hpc, indexedTarget_toNat hnnn]
  exact ⟨t, hexec, hsum, by omega, hframe⟩

/-- Settles O25: each of the four is a conditional skip on its own comparison. -/
theorem skipsCompareAndSkip : Obligations.SkipsCompareAndSkip := fun _ _ _ _ =>
  ⟨completes_skipIf rfl, completes_skipIf rfl, completes_skipIf rfl, completes_skipIf rfl⟩

end Sys2Proof.Machine
end

section
/-! Loads and the immediate add (spec/41_alu.md R172 to R174). Each of these instructions answers the state with another byte in
`Vx` (`completes_setV`); what is left of each statement is which one. -/

namespace Sys2Proof.Machine

/-- A write to a register changes that register only. -/
theorem changesOnly_setV (x : Reg) (b : Byte) (s : State) : ChangesOnly (fun p => p = .V x) s (s.setV x b) := by
  intro p hp
  cases p with
  | V r =>
    have hne : x ≠ r := fun h => hp (congrArg Part.V h.symm)
    exact (s.setV_getV x b r).trans (if_neg hne)
  | _ => rfl

/-- An instruction that answers the state with another byte in `Vx` completes there and changes nothing else. -/
theorem completes_setV {i : Instr} {s : State} {x : Reg} {b : Byte} (h : exec i s = .next (s.setV x b)) :
    Completes i s fun t => t.getV x = b ∧ ChangesOnly (fun p => p = .V x) s t :=
  ⟨s.setV x b, h, (s.setV_getV x b x).trans (if_pos rfl), changesOnly_setV x b s⟩

/-- Settles O27: the one load writes its byte to `Vx`, the other the old `Vy`. -/
theorem loadsSetTheRegister : Obligations.LoadsSetTheRegister := fun _ _ _ _ =>
  ⟨completes_setV rfl, completes_setV rfl⟩

/-- Settles O29: ADD writes the sum of the two bytes to `Vx`, and a sum of bytes is modulo 2^8. -/
theorem addImmediateWrapsWithoutFlag : Obligations.AddImmediateWrapsWithoutFlag := by
  intro x nn s
  obtain ⟨t, hexec, hsum, hframe⟩ : Completes (.addByte x nn) s fun t =>
      t.getV x = s.getV x + nn ∧ ChangesOnly (fun p => p = .V x) s t := completes_setV rfl
  exact ⟨t, hexec, by rw [hsum, BitVec.toNat_add], hframe⟩

end Sys2Proof.Machine
end

section
/-! Loads of the index register (spec/42_index_memory.md R221, R223). Each of these instructions answers the state with another
`I` (`completes_setI`); what is left of each statement is which one. -/

namespace Sys2Proof.Machine

/-- A write to `I` changes `I` only. -/
theorem changesOnly_setI (w : Word) (s : State) : ChangesOnly (fun p => p = .I) s (s.setI w) := by
  intro p hp
  cases p with
  | I => exact absurd rfl hp
  | _ => rfl

/-- An instruction that answers the state with another `I` completes there and changes nothing else. -/
theorem completes_setI {i : Instr} {s : State} {w : Word} (h : exec i s = .next (s.setI w)) :
    Completes i s fun t => t.I = w ∧ ChangesOnly (fun p => p = .I) s t :=
  ⟨s.setI w, h, s.setI_I w, changesOnly_setI w s⟩

/-- The address of a glyph does not wrap: 5 times a byte is less than 2^16 (R223). -/
theorem glyphAddr_toNat (v : Byte) : (glyphAddr v).toNat = 5 * v.toNat := by
  rw [glyphAddr, BitVec.toNat_ofNat]
  omega

/-- Settles O34: the one load writes its address to `I`, the other the address of the glyph of `Vx`, which does not wrap. -/
theorem indexLoadsSetI : Obligations.IndexLoadsSetI := by
  intro nnn x s
  obtain ⟨t, hexec, hI, hframe⟩ : Completes (.ldFVx x) s fun t =>
      t.I = glyphAddr (s.getV x) ∧ ChangesOnly (fun p => p = .I) s t := completes_setI rfl
  exact ⟨completes_setI rfl, t, hexec, by rw [hI, glyphAddr_toNat], hframe⟩

end Sys2Proof.Machine
end

section
/-! The display (spec/43_display.md R261, R266). `CLS` writes the grid only (`changesOnly_setDisp`); the list that `get_display`
answers is the flattened grid (`Display.cells_eq_toList_flatten`), so the library's index rule for a flattened vector of vectors
gives its entries. -/

namespace Sys2Proof.Machine

/-- A write to the display buffer changes display cells only. -/
theorem changesOnly_setDisp (d : Display) (s : State) : ChangesOnly (fun p => ∃ k, p = .disp k) s (s.setDisp d) := by
  intro p hp
  cases p with
  | disp k => exact absurd ⟨k, rfl⟩ hp
  | _ => rfl

/-- Settles O40: CLS writes the grid that is off everywhere. -/
theorem clearTurnsEveryCellOff : Obligations.ClearTurnsEveryCellOff := fun s =>
  ⟨s.setDisp Display.off, rfl, Display.cell_off, changesOnly_setDisp Display.off s⟩

theorem Display.cells_eq_toList_flatten (d : Display) : Display.cells d = (Vector.flatten d).toList := by
  have hrows : (d.toArray.map Vector.toArray).toList.map Array.toList = d.toList.map Vector.toList := by
    rw [Array.toList_map, List.map_map]
    rfl
  rw [Display.cells, ← hrows]
  exact Array.toList_flatten.symm

@[simp] theorem Display.length_cells (d : Display) : (Display.cells d).length = 2048 := by
  rw [Display.cells_eq_toList_flatten, Vector.length_toList]

/-- Entry `k` is in row `k / 64` and column `k % 64`, as `disp[k]` is (R33). -/
@[simp] theorem Display.getElem?_cells (d : Display) (k : Fin 2048) :
    (Display.cells d)[k.val]? = some (Display.cell d k) := by
  have hk : k.val < 32 * 64 := k.isLt
  rw [Display.cells_eq_toList_flatten, Vector.getElem?_toList, Vector.getElem?_eq_getElem hk, Vector.getElem_flatten]
  rfl

/-- Settles O44: a running machine answers the cells of its display and keeps its state. -/
theorem getDisplayReadsTheCells : Obligations.GetDisplayReadsTheCells := fun s hrun =>
  ⟨Display.cells s.disp, whenRunning_of_running hrun _, Display.length_cells s.disp, Display.getElem?_cells s.disp⟩

end Sys2Proof.Machine
end

section
/-! The timer registers (spec/44_keys_timers.md R293, R295, R296). FX07 answers the state with another byte in `Vx`
(`completes_setV`), FX15 and FX18 one with another timer. -/

namespace Sys2Proof.Machine

/-- A write to the delay timer changes that timer only. -/
theorem changesOnly_setDT (b : Byte) (s : State) : ChangesOnly (fun p => p = .DT) s (s.setDT b) := by
  intro p hp
  cases p with
  | DT => exact absurd rfl hp
  | _ => rfl

/-- A write to the sound timer changes that timer only. -/
theorem changesOnly_setST (b : Byte) (s : State) : ChangesOnly (fun p => p = .ST) s (s.setST b) := by
  intro p hp
  cases p with
  | ST => exact absurd rfl hp
  | _ => rfl

/-- Settles O46: each of the three is one write of the byte it copies, to `Vx`, to `DT` or to `ST`. -/
theorem timerRegistersAreCopied : Obligations.TimerRegistersAreCopied := fun x s =>
  ⟨completes_setV rfl,
    ⟨s.setDT (s.getV x), rfl, s.setDT_DT (s.getV x), changesOnly_setDT (s.getV x) s⟩,
    ⟨s.setST (s.getV x), rfl, s.setST_ST (s.getV x), changesOnly_setST (s.getV x) s⟩⟩

end Sys2Proof.Machine
end

section
/-! Fault entry (spec/60_exceptions.md R335). A transaction ends in a fault only through `settle`, which takes the fault by
`enterFault` (`settle_eq_faulted`); what is left is which transactions have a fault to settle (`transact_eq_faulted`). -/

namespace Sys2Proof.Machine

section
variable {s u : State} {f : Fault}

/-- A transaction settles in a fault exactly when its answer is that fault, and it leaves the state of fault entry. -/
theorem settle_eq_faulted {r : Result State} : settle s r = .faulted f u ↔ r = .fault f ∧ u = enterFault f s := by
  cases r with
  | next s' => simp [settle]
  | refused e => simp [settle]
  | fault g =>
    simp only [settle, TransactionResult.faulted.injEq, Host.Outcome.fault.injEq]
    exact and_congr_right fun hg => by rw [hg, eq_comm]

theorem whenRunning_eq_faulted {r : TransactionResult} :
    whenRunning s r = .faulted f u ↔ s.status = .running ∧ r = .faulted f u := by
  unfold whenRunning
  split <;> simp [*]

/-- The only fault of a load is for too many bytes (R373). -/
theorem loadProgram_eq_fault {bytes : List Byte} :
    loadProgram bytes s = .fault f ↔ 4096 < 0x200 + bytes.length ∧ f = .loadOOB bytes.length := by
  unfold loadProgram
  split <;> simp [*, eq_comm]

/-- A key press completes or is refused (R290). -/
theorem pressKey_ne_fault {k : Nat} {pressed : Bool} : pressKey k pressed s ≠ .fault f := by
  unfold pressKey
  split <;> nofun

/-- A transaction that ends in a fault leaves the state of fault entry, and it is a tick whose step raised the fault or a load of
too many bytes. -/
theorem transact_eq_faulted {tr : Transaction} (h : transact tr s = .faulted f u) :
    u = enterFault f s ∧
      ((tr = .tick ∧ step s = .fault f) ∨ ∃ bytes, tr = .load bytes ∧ f = .loadOOB bytes.length) := by
  cases tr with
  | create | reset => cases h
  | load bytes =>
    obtain ⟨hload, hu⟩ := settle_eq_faulted.mp (whenRunning_eq_faulted.mp h).2
    exact ⟨hu, .inr ⟨bytes, rfl, (loadProgram_eq_fault.mp hload).2⟩⟩
  | tick =>
    obtain ⟨hstep, hu⟩ := settle_eq_faulted.mp h
    exact ⟨hu, .inl ⟨rfl, hstep⟩⟩
  | keyPress k pressed =>
    exact absurd (settle_eq_faulted.mp (whenRunning_eq_faulted.mp h).2).1 pressKey_ne_fault
  | tickTimers | getDisplay | readSoundTimer => cases (whenRunning_eq_faulted.mp h).2

end

/-- Settles O11: a fault of the step is taken by fault entry, and so is every fault that a transaction ends in. -/
theorem faultEntrySetsTheStatus : Obligations.FaultEntrySetsTheStatus := by
  refine ⟨fun s f hstep => ?_, fun tr s f u h => ?_⟩
  · exact ⟨enterFault f s, settle_eq_faulted.mpr ⟨hstep, rfl⟩, enterFault_status f s⟩
  · obtain ⟨rfl, hcause⟩ := transact_eq_faulted h
    exact ⟨enterFault_status f s, hcause⟩

end Sys2Proof.Machine
end

section
/-! The decoder on bytes and the encoder (spec/30_encoding.md R90, R97, R105): each undoes the other. What the words need stands
above (`decodeWord_encode`, `encode_of_decodeWord`); here are the two bytes of a word and the ranges of decoded operands. -/

namespace Sys2Proof

/-- The decoder takes the two bytes of a legal word, high byte first, and gives back the bytes after them. -/
theorem decode_bytes_of_decodeWord {w : Word} {i : Instr} (h : decodeWord w = some i) (rest : List Byte) :
    decode (highByte w :: lowByte w :: rest) = .ok (i, rest) := by
  simp only [decode, wordOfBytes_bytes, h]

/-- Settles O1: the bytes of an instruction make its word, and the decoder reads that word back. -/
theorem decodeOfEncodeIsTheInstruction : Obligations.DecodeOfEncodeIsTheInstruction := fun _ rest hwf =>
  decode_bytes_of_decodeWord (decodeWord_encode hwf) rest

theorem fitsAddr_fieldNNN (w : Word) : fitsAddr (fieldNNN w) = true :=
  decide_eq_true (by rw [fieldNNN_toNat]; omega)

theorem fitsHeight_fieldN (w : Word) : fitsHeight (fieldN w) = true :=
  decide_eq_true (by rw [fieldN_eq]; omega)

theorem wellFormed_of_decodeD0 {w : Word} {i : Instr} (h : decodeD0 w = some i) : i.wellFormed = true := by
  unfold decodeD0 at h
  split_ifs at h <;> cases h <;> rfl

theorem wellFormed_of_decodeD8 {w : Word} {i : Instr} (h : decodeD8 w = some i) : i.wellFormed = true := by
  unfold decodeD8 at h
  split at h <;> cases h <;> rfl

theorem wellFormed_of_decodeDE {w : Word} {i : Instr} (h : decodeDE w = some i) : i.wellFormed = true := by
  unfold decodeDE at h
  split at h <;> cases h <;> rfl

theorem wellFormed_of_decodeDF {w : Word} {i : Instr} (h : decodeDF w = some i) : i.wellFormed = true := by
  unfold decodeDF at h
  split at h <;> cases h <;> rfl

/-- The decoder answers well-formed instructions only: an address field has 12 bits and a height field 4. -/
theorem wellFormed_of_decodeWord {w : Word} {i : Instr} (h : decodeWord w = some i) : i.wellFormed = true := by
  unfold decodeWord at h
  split at h
  case h_1 => exact wellFormed_of_decodeD0 h
  case h_2 | h_3 | h_11 | h_12 => cases h; exact fitsAddr_fieldNNN w
  case h_4 | h_5 | h_7 | h_8 | h_13 => cases h; rfl
  case h_6 | h_10 => split_ifs at h; cases h; rfl
  case h_9 => exact wellFormed_of_decodeD8 h
  case h_14 => cases h; exact fitsHeight_fieldN w
  case h_15 => exact wellFormed_of_decodeDE h
  case h_16 => exact wellFormed_of_decodeDF h
  case h_17 => cases h

/-- Settles O2: the fields of a word fit their formats, and the formats put them back where they were. -/
theorem encodeOfDecodeIsTheWord : Obligations.EncodeOfDecodeIsTheWord := fun _ _ h =>
  ⟨wellFormed_of_decodeWord h, encode_of_decodeWord h⟩

/-- Settles O6: thirteen fixed words, each evaluated. -/
theorem fewWordsDecode : Obligations.FewWordsDecode := by
  unfold Obligations.FewWordsDecode
  decide

end Sys2Proof
end

section
/-! Frames. `ChangesOnly` passes along a sequence of writes (`ChangesOnly.trans`), so that the frame of an instruction is put
together from the frames of the writes it makes. Writes to two different fields commute, and Lean sees it by unfolding: where a
statement lists the parts in another order than the model writes them, the writes are composed in the order of the statement. -/

namespace Sys2Proof.Machine

section
variable {s t u : State} {may may' : Part → Prop}

theorem ChangesOnly.refl (may : Part → Prop) (s : State) : ChangesOnly may s s := by
  intro p _
  cases p <;> rfl

theorem ChangesOnly.mono (h : ChangesOnly may s t) (hmay : ∀ p, may p → may' p) : ChangesOnly may' s t :=
  fun p hp => h p (mt (hmay p) hp)

theorem SamePart.trans {p : Part} (h : SamePart s t p) (h' : SamePart t u p) : SamePart s u p := by
  cases p <;> exact Eq.trans h' h

theorem ChangesOnly.trans (h : ChangesOnly may s t) (h' : ChangesOnly may' t u) :
    ChangesOnly (fun p => may p ∨ may' p) s u := by
  intro p hp
  rw [not_or] at hp
  exact (h p hp.1).trans (h' p hp.2)

/-- `exec` answers one outcome, so what holds of some state it completes in holds of every such state. -/
theorem Completes.of_exec {i : Instr} {post : State → Prop} (hi : Completes i s post) (h : exec i s = .next t) : post t := by
  obtain ⟨t', ht', hpost⟩ := hi
  rw [ht'] at h
  exact Host.Outcome.next.inj h ▸ hpost

end

theorem changesOnly_setSp (w : Word) (s : State) : ChangesOnly (fun p => p = .sp) s (s.setSp w) := by
  intro p hp
  cases p with
  | sp => exact absurd rfl hp
  | _ => rfl

theorem changesOnly_setStack (k : Fin 16) (w : Word) (s : State) :
    ChangesOnly (fun p => p = .stack k) s (s.setStack k w) := by
  intro p hp
  cases p with
  | stack j =>
    have hne : k ≠ j := fun h => hp (congrArg Part.stack h.symm)
    exact (s.setStack_get k w j).trans (if_neg hne)
  | _ => rfl

theorem changesOnly_setKey (k : Fin 16) (c : Bool) (s : State) : ChangesOnly (fun p => p = .key k) s (s.setKey k c) := by
  intro p hp
  cases p with
  | key j =>
    have hne : k ≠ j := fun h => hp (congrArg Part.key h.symm)
    exact (s.setKey_get k c j).trans (if_neg hne)
  | _ => rfl

theorem changesOnly_countDraw (s : State) : ChangesOnly (fun p => p = .draws) s s.countDraw := by
  intro p hp
  cases p with
  | draws => exact absurd rfl hp
  | _ => rfl

end Sys2Proof.Machine
end

section
/-! CALL and RET (spec/40_control.md R131, R132, R135, R137). Each is an operation of the stack unit and a write to `pc`. -/

namespace Sys2Proof.Machine

section
variable {s t : State} {nnn : Word}

theorem exec_call_room (h : s.sp.toNat < 16) :
    exec (.call nnn) s = .next (((s.setStack ⟨s.sp.toNat, h⟩ s.pc).setSp (s.sp + 1)).setPc nnn) := by
  rw [exec, execCall, push_room h, andThen_next]

theorem exec_call_full (h : 16 ≤ s.sp.toNat) : exec (.call nnn) s = .fault (.stackOverflow s.sp s.site) := by
  rw [exec, execCall, push_full h, andThen_fault]

/-- CALL completes exactly when an entry is free. -/
theorem exec_call_eq_next : exec (.call nnn) s = .next t ↔
    ∃ h : s.sp.toNat < 16, t = ((s.setStack ⟨s.sp.toNat, h⟩ s.pc).setSp (s.sp + 1)).setPc nnn := by
  by_cases h : s.sp.toNat < 16
  · simp [exec_call_room h, h, eq_comm]
  · simp [exec_call_full (not_lt.mp h), h]

theorem exec_ret_legal (h0 : 0 < s.sp.toNat) (h : s.sp.toNat ≤ 16) :
    exec .ret s = .next ((s.setSp (s.sp - 1)).setPc s.stack[s.sp.toNat - 1]) := by
  rw [exec, execRet, pop_some h0 h, andThen_next]

theorem exec_ret_empty (h : s.sp.toNat = 0) : exec .ret s = .fault (.stackUnderflow s.site) := by
  rw [exec, execRet, pop_empty h, andThen_fault]

theorem exec_ret_illegal (h : 16 < s.sp.toNat) : exec .ret s = .refused (.illegalStackPointer s.sp) := by
  rw [exec, execRet, pop_illegal h, andThen_refused]

/-- RET completes exactly when the depth is legal and not 0. -/
theorem exec_ret_eq_next : exec .ret s = .next t ↔ ∃ (_ : 0 < s.sp.toNat) (_ : s.sp.toNat ≤ 16),
    t = (s.setSp (s.sp - 1)).setPc s.stack[s.sp.toNat - 1] := by
  by_cases h0 : s.sp.toNat = 0
  · simp [exec_ret_empty h0, h0]
  · by_cases h : s.sp.toNat ≤ 16
    · simp [exec_ret_legal (Nat.pos_of_ne_zero h0) h, Nat.pos_of_ne_zero h0, h, eq_comm]
    · simp [exec_ret_illegal (not_le.mp h), h]

theorem toNat_sp_add_one (h : s.sp.toNat < 16) : (s.sp + 1).toNat = s.sp.toNat + 1 := by
  bv_omega

theorem toNat_sp_sub_one (h : 0 < s.sp.toNat) : (s.sp - 1).toNat = s.sp.toNat - 1 := by
  bv_omega

end

/-- Settles O21: CALL is a push of `pc` and a write to `pc`. -/
theorem callPushesAndJumps : Obligations.CallPushesAndJumps := by
  intro nnn s h
  refine ⟨_, exec_call_room h, rfl, toNat_sp_add_one h, ?_, ?_⟩
  · exact (s.setStack_get ⟨s.sp.toNat, h⟩ s.pc ⟨s.sp.toNat, h⟩).trans (if_pos rfl)
  · exact (changesOnly_setPc nnn s).trans ((changesOnly_setSp _ _).trans (changesOnly_setStack _ _ _))

/-- Settles O22: with no entry free the push faults. -/
theorem callOnFullStackFaults : Obligations.CallOnFullStackFaults := fun _ _ h => exec_call_full h

/-- Settles O23: RET by the three ranges of `sp`. -/
theorem returnPopsOrStops : Obligations.ReturnPopsOrStops := by
  refine fun s => ⟨fun h0 h => ?_, fun h => exec_ret_empty (by rw [h]; rfl), exec_ret_illegal⟩
  exact ⟨_, exec_ret_legal h0 h, rfl, toNat_sp_sub_one h0, (changesOnly_setPc _ s).trans (changesOnly_setSp _ _)⟩

/-- Settles O24: RET pops the entry that CALL pushed, because `sp` counts one entry more than when CALL pushed it. -/
theorem returnUndoesCall : Obligations.ReturnUndoesCall := by
  intro nnn s t u hcall hsp hstack
  obtain ⟨h, rfl⟩ := exec_call_eq_next.mp hcall
  replace hsp : u.sp = s.sp + 1 := hsp
  replace hstack : u.stack = s.stack.set s.sp.toNat s.pc := hstack
  have hdepth : u.sp.toNat = s.sp.toNat + 1 := by rw [hsp, toNat_sp_add_one h]
  refine ⟨_, exec_ret_legal (by omega) (by omega), ?_, ?_⟩
  · simp [hstack, hdepth]
  · simp [hsp]

end Sys2Proof.Machine
end

section
/-! ALU instructions and the random draw (spec/41_alu.md R175 to R183), and the index add (R222). The instructions that write VF
make two register writes, so their frame is `changesOnly_setV` twice. -/

namespace Sys2Proof.Machine

/-- Settles O28: each of the three is one write of a bitwise operation, which the library gives bit by bit. -/
theorem logicKeepsVF : Obligations.LogicKeepsVF := by
  intro x y s
  refine ⟨?_, ?_, ?_⟩ <;> refine ⟨_, rfl, changesOnly_setV x _ s, fun k => ?_⟩
  · simp
  · simp
  · simp

theorem toNat_flagOf (c : Bool) : (flagOf c).toNat = if c then 1 else 0 := by
  cases c <;> rfl

/-- The flag is 1 exactly for a carry out of the byte (R178). -/
theorem toNat_carryFlag (a b : Byte) : (carryFlag a b).toNat = if a.toNat + b.toNat > 255 then 1 else 0 := by
  simp [carryFlag, toNat_flagOf]

/-- The flag is 0 exactly for a borrow (R179, R181). -/
theorem toNat_notBorrowFlag (a b : Byte) : (notBorrowFlag a b).toNat = if a.toNat < b.toNat then 0 else 1 := by
  by_cases h : a.toNat < b.toNat
  · simp [notBorrowFlag, toNat_flagOf, h]
  · simp [notBorrowFlag, toNat_flagOf, h]

theorem toNat_lsbFlag (a : Byte) : (lsbFlag a).toNat = a.toNat % 2 := by
  simp [lsbFlag, Nat.and_one_is_mod]

theorem toNat_msbFlag (a : Byte) : (msbFlag a).toNat = a.toNat / 128 := by
  simp [msbFlag, Nat.and_one_is_mod, Nat.shiftRight_eq_div_pow]
  omega

/-- An instruction that answers a result and then a flag leaves the flag in VF, the result in any other `Vx`, and no other
change (R171). -/
theorem completes_resultThenFlag {i : Instr} {s : State} {x : Reg} {result flag : Byte}
    (h : exec i s = .next (resultThenFlag x result flag s)) :
    Completes i s fun t => t.getV VF = flag ∧ (x ≠ VF → t.getV x = result) ∧
      ChangesOnly (fun p => p = .V x ∨ p = .V VF) s t := by
  refine ⟨_, h, ?_, fun hx => ?_, (changesOnly_setV x result s).trans (changesOnly_setV VF flag _)⟩
  · simp [resultThenFlag]
  · simp [resultThenFlag, hx.symm]

/-- Settles O30: ADD answers the sum, then the carry. -/
theorem addSetsSumThenCarry : Obligations.AddSetsSumThenCarry := by
  intro x y s
  obtain ⟨t, hexec, hflag, hresult, hframe⟩ := completes_resultThenFlag (i := .addReg x y) (s := s) rfl
  refine ⟨t, hexec, ?_, fun hx => ?_, hframe⟩
  · rw [hflag, toNat_carryFlag]
  · rw [hresult hx, BitVec.toNat_add]

theorem toNat_byte_sub (a b : Byte) : (a - b).toNat = (a.toNat + 256 - b.toNat) % 256 := by
  rw [BitVec.toNat_sub]
  omega

/-- Settles O31: SUB and SUBN answer a difference, then its NOT borrow. -/
theorem subtractionsSetDifferenceThenNotBorrow : Obligations.SubtractionsSetDifferenceThenNotBorrow := by
  intro x y s
  constructor
  · obtain ⟨t, hexec, hflag, hresult, hframe⟩ := completes_resultThenFlag (i := .subReg x y) (s := s) rfl
    exact ⟨t, hexec, by rw [hflag, toNat_notBorrowFlag], fun hx => by rw [hresult hx, toNat_byte_sub], hframe⟩
  · obtain ⟨t, hexec, hflag, hresult, hframe⟩ := completes_resultThenFlag (i := .subnReg x y) (s := s) rfl
    exact ⟨t, hexec, by rw [hflag, toNat_notBorrowFlag], fun hx => by rw [hresult hx, toNat_byte_sub], hframe⟩

/-- An instruction that answers a flag in VF and then `f` of what `Vx` holds: for `x = VF` that is `f` of the flag (R171). -/
theorem completes_flagThenShift {i : Instr} {s : State} {x : Reg} {flag : Byte} {f : Byte → Byte}
    (h : exec i s = .next ((s.setV VF flag).setV x (f ((s.setV VF flag).getV x)))) :
    Completes i s fun t => (x ≠ VF → t.getV x = f (s.getV x) ∧ t.getV VF = flag) ∧ (x = VF → t.getV VF = f flag) ∧
      ChangesOnly (fun p => p = .V x ∨ p = .V VF) s t := by
  refine ⟨_, h, fun hx => ?_, fun hx => ?_, ?_⟩
  · simp [hx, hx.symm]
  · simp [hx]
  · exact ((changesOnly_setV VF flag s).trans (changesOnly_setV x _ _)).mono fun _ => Or.symm

theorem toNat_shiftRight_one (a : Byte) : (a >>> 1).toNat = a.toNat / 2 := by
  simp [Nat.shiftRight_eq_div_pow]

theorem toNat_shiftLeft_one (a : Byte) : (a <<< 1).toNat = 2 * a.toNat % 256 := by
  simp [Nat.shiftLeft_eq, Nat.mul_comm]

/-- Settles O32: SHR and SHL answer the bit shifted out, then the shift of what `Vx` then holds, which for `x = VF` is the bit
itself. -/
theorem shiftsSetFlagThenShift : Obligations.ShiftsSetFlagThenShift := by
  intro x y s
  constructor
  · obtain ⟨t, hexec, hother, hVF, hframe⟩ := completes_flagThenShift (i := .shr x y) (s := s) (f := (· >>> 1)) rfl
    refine ⟨t, hexec, fun hx => ?_, fun hx => ?_, hframe⟩
    · rw [(hother hx).1, (hother hx).2, toNat_shiftRight_one, toNat_lsbFlag]
      exact ⟨rfl, rfl⟩
    · apply BitVec.eq_of_toNat_eq
      rw [hVF hx, toNat_shiftRight_one, toNat_lsbFlag]
      exact Nat.div_eq_of_lt (Nat.mod_lt _ two_pos)
  · obtain ⟨t, hexec, hother, hVF, hframe⟩ := completes_flagThenShift (i := .shl x y) (s := s) (f := (· <<< 1)) rfl
    refine ⟨t, hexec, fun hx => ?_, fun hx => ?_, hframe⟩
    · rw [(hother hx).1, (hother hx).2, toNat_shiftLeft_one, toNat_msbFlag]
      exact ⟨rfl, rfl⟩
    · rw [hVF hx, toNat_shiftLeft_one, toNat_msbFlag, hx]
      omega

/-- Settles O33: RND writes the drawn byte and the mask, and counts the draw. -/
theorem randomIsADrawAndTheMask : Obligations.RandomIsADrawAndTheMask := by
  intro x nn s
  have hV : (s.countDraw.setV x (Config.rand s.draws &&& nn)).getV x = Config.rand s.draws &&& nn := by simp
  refine ⟨_, rfl, hV, fun hnn => ?_, rfl, (changesOnly_setV x _ s).trans (changesOnly_countDraw _)⟩
  exact hV.trans (by rw [hnn]; exact BitVec.and_zero)

/-- Settles O35: ADD I writes the sum to `I`, and a sum of words is modulo 2^16. -/
theorem indexAddWrapsWithoutFlag : Obligations.IndexAddWrapsWithoutFlag := by
  intro x s
  refine ⟨_, rfl, ?_, changesOnly_setI _ s⟩
  simp [indexSum]

end Sys2Proof.Machine
end

section
/-! Memory-indexed instructions (spec/42_index_memory.md R224 to R226) and `load` (R373). A store of successive bytes inside
memory is read back from its addresses (`byteAt_putBytes`) and changes no other part (`changesOnly_putBytes`). -/

namespace Sys2Proof.Machine

section
variable {s t : State} {a : Nat} {bs : List Byte}

/-- A byte of a state read after successive bytes are written, at one of their addresses. -/
theorem byteAt_putBytes (hwf : Memory.wf s.mem = true) (ha : a + bs.length ≤ 4096) {k : Nat} (hk : k < bs.length) :
    State.byteAt { s with mem := Memory.putBytes s.mem a bs } (a + k) = bs[k] := by
  rw [State.byteAt, Memory.byte_putBytes hwf ha, dif_pos (by omega)]
  simp only [Nat.add_sub_cancel_left]

/-- A write of successive bytes changes the bytes at their addresses only. -/
theorem changesOnly_putBytes (hwf : Memory.wf s.mem = true) (ha : a + bs.length ≤ 4096) :
    ChangesOnly (fun p => ∃ k : Nat, k < bs.length ∧ p = .mem (a + k)) s
      { s with mem := Memory.putBytes s.mem a bs } := by
  intro p hp
  cases p with
  | mem j =>
    have hj : ¬ (a ≤ j ∧ j < a + bs.length) := fun h => hp ⟨j - a, by omega, by rw [Nat.add_sub_cancel' h.1]⟩
    exact (Memory.byte_putBytes hwf ha j).trans (dif_neg hj)
  | _ => rfl

/-- A store of some bytes completes exactly when the last of them is inside memory. -/
theorem storeBytes_eq_next (hne : bs ≠ []) :
    storeBytes bs a s = .next t ↔ a + bs.length ≤ 4096 ∧ t = { s with mem := Memory.putBytes s.mem a bs } := by
  by_cases h : a + bs.length ≤ 4096
  · simp [storeBytes_inside h, h, eq_comm]
  · simp [storeBytes_outside hne (not_le.mp h), h]

end

section
variable {s t : State} {x : Reg}

@[simp] theorem length_decimalDigits (v : Byte) : (decimalDigits v).length = 3 := rfl

theorem decimalDigits_ne_nil (v : Byte) : decimalDigits v ≠ [] := List.cons_ne_nil _ _

@[simp] theorem length_regRange : (regRange s x).length = x.val + 1 := by
  simp [regRange]

theorem regRange_ne_nil : regRange s x ≠ [] := List.ne_nil_of_length_pos (by simp)

theorem getElem_regRange {k : Nat} (h : k < (regRange s x).length) (hk : k < 16) : (regRange s x)[k] = s.getV ⟨k, hk⟩ := by
  simp [regRange, State.getV]

/-- LD B completes exactly when the three addresses are inside memory. -/
theorem exec_ldBVx_eq_next : exec (.ldBVx x) s = .next t ↔
    s.I.toNat + 3 ≤ 4096 ∧ t = { s with mem := Memory.putBytes s.mem (effAddr s 0) (decimalDigits (s.getV x)) } :=
  storeBytes_eq_next (decimalDigits_ne_nil _)

/-- LD [I] completes exactly when the addresses of `V0` to `Vx` are inside memory. -/
theorem exec_storeRegs_eq_next : exec (.storeRegs x) s = .next t ↔
    s.I.toNat + x.val < 4096 ∧ t = { s with mem := Memory.putBytes s.mem (effAddr s 0) (regRange s x) } := by
  have h := storeBytes_eq_next (s := s) (t := t) (a := effAddr s 0) (regRange_ne_nil (s := s) (x := x))
  rwa [length_regRange] at h

/-- LD Vx,[I] inside memory: `V0` to `Vx` are the bytes there, and no other part of the state changes. -/
theorem completes_loadRegs (h : s.I.toNat + x.val < 4096) : Completes (.loadRegs x) s fun t =>
    (∀ r : Reg, r.val ≤ x.val → t.getV r = s.byteAt (effAddr s r.val)) ∧
    ChangesOnly (fun p => ∃ r : Reg, r.val ≤ x.val ∧ p = .V r) s t := by
  obtain ⟨v, hexec, hv⟩ := loadBytes_inside (n := x.val + 1) (k := 0) (a := effAddr s 0) (s := s) (by omega)
    (by simp only [effAddr]; omega)
  refine ⟨_, hexec, fun r hr => (hv r).trans (if_pos (by omega)), fun p hp => ?_⟩
  cases p with
  | V r => exact (hv r).trans (if_neg fun hr => hp ⟨r, by omega, rfl⟩)
  | _ => rfl

theorem exec_loadRegs_outside (h : 4096 ≤ s.I.toNat + x.val) :
    exec (.loadRegs x) s = .fault (.memOOB (max (effAddr s 0) 4096) s.site) :=
  loadBytes_outside (n := x.val + 1) (k := 0) (a := effAddr s 0) (by omega) (by simp only [effAddr]; omega)

end

theorem toNat_ofNat_digit {n : Nat} (h : n < 256) : (BitVec.ofNat 8 n).toNat = n := by
  rw [BitVec.toNat_ofNat, Nat.mod_eq_of_lt h]

/-- Settles O36: LD B is a store of the three digits. -/
theorem decimalDigitsAreStored : Obligations.DecimalDigitsAreStored := by
  intro x s hwf
  constructor
  · intro hI
    have hin : effAddr s 0 + (decimalDigits (s.getV x)).length ≤ 4096 := by
      rw [length_decimalDigits, effAddr]
      omega
    have hread {k : Nat} (hk : k < 3) := byteAt_putBytes (k := k) hwf hin hk
    have hbyte : (s.getV x).toNat < 256 := (s.getV x).isLt
    refine ⟨_, storeBytes_inside hin, ?_, ?_, ?_, changesOnly_putBytes hwf hin⟩
    · exact (congrArg BitVec.toNat (hread (k := 0) (by omega))).trans (toNat_ofNat_digit (by omega))
    · exact (congrArg BitVec.toNat (hread (k := 1) (by omega))).trans (toNat_ofNat_digit (by omega))
    · exact (congrArg BitVec.toNat (hread (k := 2) (by omega))).trans (toNat_ofNat_digit (by omega))
  · intro hI
    exact storeBytes_outside (decimalDigits_ne_nil _) (by rw [length_decimalDigits, effAddr]; omega)

/-- Settles O37: LD [I] is a store of the list of `V0` to `Vx`. -/
theorem registersAreStored : Obligations.RegistersAreStored := by
  intro x s hwf
  constructor
  · intro hI
    have hin : effAddr s 0 + (regRange s x).length ≤ 4096 := by
      rw [length_regRange, effAddr]
      omega
    refine ⟨_, storeBytes_inside hin, fun r hr => ?_, (changesOnly_putBytes hwf hin).mono ?_⟩
    · have hlen : r.val < (regRange s x).length := by rw [length_regRange]; omega
      exact (byteAt_putBytes hwf hin hlen).trans (getElem_regRange hlen r.isLt)
    · rintro p ⟨k, hk, hp⟩
      rw [length_regRange] at hk
      exact ⟨k, by omega, hp⟩
  · intro hI
    exact storeBytes_outside regRange_ne_nil (by rw [length_regRange, effAddr]; omega)

/-- Settles O38: LD Vx,[I] inside memory and past its end. -/
theorem registersAreLoaded : Obligations.RegistersAreLoaded := fun _ _ =>
  ⟨completes_loadRegs, exec_loadRegs_outside⟩

/-- Settles O39: the load reads the addresses that the store wrote, because the store keeps `I`. -/
theorem loadRestoresStoredRegisters : Obligations.LoadRestoresStoredRegisters := by
  intro x s t v hwf hstore
  have hI : s.I.toNat + x.val < 4096 := (exec_storeRegs_eq_next.mp hstore).1
  obtain ⟨hbytes, hframe⟩ := ((registersAreStored x s hwf).1 hI).of_exec hstore
  have hsame : t.I = s.I := hframe .I (by simp)
  obtain ⟨u, hload, hregs, hkept⟩ := completes_loadRegs (s := { t with V := v }) (x := x) (by rw [hsame]; exact hI)
  refine ⟨u, hload, fun r => ⟨fun hr => ?_, fun hr => ?_⟩⟩
  · have haddr : effAddr { t with V := v } r.val = effAddr s r.val := by simp only [effAddr, hsame]
    rw [hregs r hr, haddr]
    exact hbytes r hr
  · refine hkept (.V r) ?_
    rintro ⟨r', hr', h⟩
    cases h
    omega

/-- Settles O51: a load is a write of successive bytes from 0x200. -/
theorem loadCopiesTheProgram : Obligations.LoadCopiesTheProgram := by
  intro bytes s hrun hwf
  constructor
  · intro hlen
    have hin : 0x200 + bytes.length ≤ 4096 := by omega
    refine ⟨{ s with mem := Memory.putBytes s.mem 0x200 bytes }, ?_, fun i => byteAt_putBytes hwf hin i.isLt,
      changesOnly_putBytes hwf hin⟩
    exact (whenRunning_of_running hrun _).trans
      (settle_eq_done.mpr ⟨rfl, by rw [loadProgram, if_neg (by omega)]⟩)
  · intro hlen
    exact ⟨enterFault _ s, (whenRunning_of_running hrun _).trans
      (settle_eq_faulted.mpr ⟨loadProgram_eq_fault.mpr ⟨by omega, rfl⟩, rfl⟩)⟩

end Sys2Proof.Machine
end

section
/-! Drawing (spec/43_display.md R262 to R265). A draw toggles the cells of one list, `drawnCells`, in order, and notes whether one
of them was on (`drawRows_eq_foldl`). The list holds exactly the cells that the sprite covers (`mem_drawnCells`), each of them
once, because a sprite is lower than the grid and narrower than it (`nodup_drawnCells`); so a draw turns each of them over and
finds each as it was before the draw (`foldl_toggleCell`). -/

namespace Sys2Proof.Machine

/-! ## The cells of a draw -/

/-- One cell toggled; it collides when it was on (R262). -/
def toggleCell (acc : Display × Bool) (k : Fin 2048) : Display × Bool :=
  (Display.toggle acc.1 k, acc.2 || Display.cell acc.1 k)

/-- The cells of one sprite row: those of its set bits (R263). -/
def rowCells (x0 y0 : Nat) (b : Byte) (row : Nat) : List (Fin 2048) :=
  ((List.range 8).filter (spriteBit b)).map fun col => cellIndex (x0 + col) (y0 + row)

/-- The cells of the `n` rows of the sprite at `I`. -/
def drawnCells (s : State) (x y : Reg) (n : Nat) : List (Fin 2048) :=
  (List.range' 0 n).flatMap fun row => rowCells (s.getV x).toNat (s.getV y).toNat (s.byteAt (effAddr s row)) row

/-- The display after a draw from `s`, and whether a cell collided. -/
def drawn (s : State) (x y : Reg) (n : Nat) : Display × Bool := (drawnCells s x y n).foldl toggleCell (s.disp, false)

theorem drawRow_eq_foldl (x0 y0 : Nat) (b : Byte) (row : Nat) (acc : Display × Bool) :
    drawRow x0 y0 b row acc = (rowCells x0 y0 b row).foldl toggleCell acc := by
  rw [rowCells, List.foldl_map, List.foldl_filter]
  rfl

/-- The rows of a draw, one after the other, toggle the cells of the draw. -/
theorem foldl_drawRow_eq_drawn (s : State) (x y : Reg) (n : Nat) :
    (List.range' 0 n).foldl (fun acc r => drawRow (s.getV x).toNat (s.getV y).toNat (s.byteAt (effAddr s r)) r acc)
      (s.disp, false) = drawn s x y n := by
  rw [drawn, drawnCells, List.foldl_flatMap]
  simp only [drawRow_eq_foldl]

/-- DRW with every row inside memory. -/
theorem exec_drw_inside {s : State} {x y : Reg} {n : Nat} (h : n = 0 ∨ s.I.toNat + n ≤ 4096) :
    exec (.drw x y n) s = .next ((s.setDisp (drawn s x y n).1).setV VF (collisionFlag (drawn s x y n).2)) := by
  rw [exec, execDrw, drawRows_inside (s := s) (row := 0) h, foldl_drawRow_eq_drawn, andThen_next]

/-- DRW with a row past memory. -/
theorem exec_drw_outside {s : State} {x y : Reg} {n : Nat} (hn : 0 < n) (h : 4096 < s.I.toNat + n) :
    exec (.drw x y n) s = .fault (.memOOB (max (effAddr s 0) 4096) s.site) := by
  rw [exec, execDrw, drawRows_outside (s := s) (row := 0) hn h, andThen_fault]

/-- DRW completes exactly when it has no row past memory. -/
theorem exec_drw_eq_next {s t : State} {x y : Reg} {n : Nat} : exec (.drw x y n) s = .next t ↔
    (n = 0 ∨ s.I.toNat + n ≤ 4096) ∧ t = (s.setDisp (drawn s x y n).1).setV VF (collisionFlag (drawn s x y n).2) := by
  by_cases h : n = 0 ∨ s.I.toNat + n ≤ 4096
  · simp [exec_drw_inside h, h, eq_comm]
  · rw [exec_drw_outside (by omega) (by omega)]
    simp [h]

/-! ## Which cells they are, and that none comes twice -/

theorem cellIndex_val (col row : Nat) : (cellIndex col row).val = col % 64 + 64 * (row % 32) := rfl

theorem mem_rowCells {x0 y0 row : Nat} {b : Byte} {k : Fin 2048} :
    k ∈ rowCells x0 y0 b row ↔ ∃ col < 8, spriteBit b col = true ∧ k = cellIndex (x0 + col) (y0 + row) := by
  simp only [rowCells, List.mem_map, List.mem_filter, List.mem_range, and_assoc, eq_comm]

/-- The list holds exactly the cells that the sprite covers. -/
theorem mem_drawnCells {s : State} {x y : Reg} {n : Nat} {k : Fin 2048} : k ∈ drawnCells s x y n ↔ Covers s x y n k := by
  simp only [drawnCells, List.mem_flatMap, List.mem_range'_1, mem_rowCells, Covers, Fin.ext_iff, cellIndex_val]
  constructor
  · rintro ⟨row, hrow, col, hcol, hbit, hk⟩
    exact ⟨row, col, by omega, hcol, hbit, hk⟩
  · rintro ⟨row, col, hrow, hcol, hbit, hk⟩
    exact ⟨row, by omega, col, hcol, hbit, hk⟩

/-- The bits of a row fall in different columns. -/
theorem nodup_rowCells (x0 y0 : Nat) (b : Byte) (row : Nat) : (rowCells x0 y0 b row).Nodup := by
  refine List.Nodup.map_on (fun c hc c' hc' h => ?_) (List.nodup_range.filter _)
  simp only [List.mem_filter, List.mem_range] at hc hc'
  have hval := congrArg Fin.val h
  simp only [cellIndex_val] at hval
  omega

/-- Two rows less than 32 apart have no cell in common. -/
theorem disjoint_rowCells {x0 y0 r r' : Nat} {b b' : Byte} (h : r < r') (h' : r' < r + 32) :
    (rowCells x0 y0 b r).Disjoint (rowCells x0 y0 b' r') := by
  intro k hk hk'
  obtain ⟨c, -, -, rfl⟩ := mem_rowCells.mp hk
  obtain ⟨c', -, -, heq⟩ := mem_rowCells.mp hk'
  have hval := congrArg Fin.val heq
  simp only [cellIndex_val] at hval
  omega

theorem nodup_drawnCells (s : State) (x y : Reg) {n : Nat} (hn : n ≤ 32) : (drawnCells s x y n).Nodup := by
  refine List.nodup_flatMap.mpr ⟨fun row _ => nodup_rowCells _ _ _ row, ?_⟩
  refine List.Pairwise.imp_of_mem (fun hr hr' hlt => ?_) (List.pairwise_lt_range' (s := 0) (n := n))
  rw [List.mem_range'_1] at hr hr'
  exact disjoint_rowCells hlt (by omega)

/-! ## What toggling a list of cells does -/

/-- Cells toggled one after the other, none of them twice: each is turned over and no other is. -/
theorem cell_foldl_toggleCell {l : List (Fin 2048)} (hl : l.Nodup) (acc : Display × Bool) (j : Fin 2048) :
    Display.cell (l.foldl toggleCell acc).1 j = if j ∈ l then !Display.cell acc.1 j else Display.cell acc.1 j := by
  induction l generalizing acc with
  | nil => rfl
  | cons k l ih =>
    obtain ⟨hk, hl⟩ := List.nodup_cons.mp hl
    rw [List.foldl_cons, ih hl, toggleCell, Display.cell_toggle]
    by_cases hj : j = k
    · subst hj
      simp [hk]
    · simp [hj]

/-- The collision flag of cells toggled one after the other, none of them twice: one of them was on at the start. -/
theorem collision_foldl_toggleCell {l : List (Fin 2048)} (hl : l.Nodup) (acc : Display × Bool) :
    (l.foldl toggleCell acc).2 = true ↔ acc.2 = true ∨ ∃ k ∈ l, Display.cell acc.1 k = true := by
  induction l generalizing acc with
  | nil => simp
  | cons k l ih =>
    obtain ⟨hk, hl⟩ := List.nodup_cons.mp hl
    have hkept : ∀ j ∈ l, Display.cell (Display.toggle acc.1 k) j = Display.cell acc.1 j := fun j hj => by
      rw [Display.cell_toggle, if_neg (ne_of_mem_of_not_mem hj hk)]
    rw [List.foldl_cons, ih hl, toggleCell, Bool.or_eq_true, List.exists_mem_cons_iff, or_assoc]
    exact or_congr_right (or_congr_right (exists_congr fun j => and_congr_right fun hj => by rw [hkept j hj]))

/-! ## The statements -/

section
variable {s : State} {x y : Reg} {n : Nat}

theorem cell_drawn_of_covers (hn : n ≤ 32) {k : Fin 2048} (h : Covers s x y n k) :
    Display.cell (drawn s x y n).1 k = !s.dispAt k :=
  (cell_foldl_toggleCell (nodup_drawnCells s x y hn) _ k).trans (if_pos (mem_drawnCells.mpr h))

theorem cell_drawn_of_not_covers (hn : n ≤ 32) {k : Fin 2048} (h : ¬ Covers s x y n k) :
    Display.cell (drawn s x y n).1 k = s.dispAt k :=
  (cell_foldl_toggleCell (nodup_drawnCells s x y hn) _ k).trans (if_neg (mt mem_drawnCells.mp h))

theorem collision_drawn (hn : n ≤ 32) : (drawn s x y n).2 = true ↔ ∃ k, Covers s x y n k ∧ s.dispAt k = true := by
  rw [drawn, collision_foldl_toggleCell (nodup_drawnCells s x y hn)]
  simp only [mem_drawnCells, Bool.false_eq_true, false_or]
  rfl

end

/-- Settles O41: DRW toggles the list of the covered cells, whatever the registers and the sprite. -/
theorem drawTogglesTheCoveredCells : Obligations.DrawTogglesTheCoveredCells := by
  intro x y n s hwf hin
  have hn : n ≤ 32 := by
    have hheight : n < 16 := of_decide_eq_true hwf
    omega
  refine ⟨_, exec_drw_inside hin, fun k => ⟨cell_drawn_of_covers hn, cell_drawn_of_not_covers hn⟩, fun h => ?_, fun h => ?_,
    fun p hp => ?_⟩
  · simp [(collision_drawn hn).mpr h, collisionFlag, flagOf]
  · simp [mt (collision_drawn hn).mp h, collisionFlag, flagOf]
  · rw [not_or] at hp
    cases p with
    | V r => exact changesOnly_setV VF _ _ (.V r) hp.1
    | disp k => exact cell_drawn_of_not_covers hn fun hk => hp.2 ⟨k, hk, rfl⟩
    | _ => rfl

/-- Settles O42: the first row at or past 4096 faults when it is read. -/
theorem drawPastMemoryFaults : Obligations.DrawPastMemoryFaults := fun _ _ _ _ hn h => exec_drw_outside hn h

/-- The cells that a sprite covers are given by the two coordinates, `I` and memory. -/
theorem covers_congr {s t : State} {x y : Reg} {n : Nat} (hx : t.getV x = s.getV x) (hy : t.getV y = s.getV y)
    (hI : t.I = s.I) (hmem : ∀ a, t.byteAt a = s.byteAt a) (k : Fin 2048) : Covers t x y n k ↔ Covers s x y n k := by
  simp only [Covers, hx, hy, hI, hmem]

/-- Settles O43: the first draw leaves the coordinates, `I` and memory, so that the second covers the same cells and turns each
of them over again. -/
theorem drawingTwiceRestoresTheDisplay : Obligations.DrawingTwiceRestoresTheDisplay := by
  intro x y n s t hwf hx hy hdraw
  have hin := (exec_drw_eq_next.mp hdraw).1
  obtain ⟨hcells, -, -, hframe⟩ := (drawTogglesTheCoveredCells x y n s hwf hin).of_exec hdraw
  have hI : t.I = s.I := hframe .I (by simp)
  have hcovers (k : Fin 2048) : Covers t x y n k ↔ Covers s x y n k :=
    covers_congr (hframe (.V x) (by simp [hx])) (hframe (.V y) (by simp [hy])) hI (fun a => hframe (.mem a) (by simp)) k
  obtain ⟨u, hagain, hcells', hon, hoff, -⟩ := drawTogglesTheCoveredCells x y n t hwf (by rw [hI]; exact hin)
  have hcollide : (∃ k, Covers t x y n k ∧ t.dispAt k = true) ↔ ∃ k, Covers s x y n k ∧ s.dispAt k = false :=
    exists_congr fun k => by
      rw [hcovers]
      exact and_congr_right fun hk => by simp [(hcells k).1 hk]
  refine ⟨u, hagain, fun k => ?_, fun hVF => ?_, fun h => hon (hcollide.mpr h)⟩
  · by_cases hk : Covers s x y n k
    · rw [(hcells' k).1 ((hcovers k).mpr hk), (hcells k).1 hk, Bool.not_not]
    · rw [(hcells' k).2 (mt (hcovers k).mp hk), (hcells k).2 hk]
  · by_contra h
    rw [hoff (mt hcollide.mp h)] at hVF
    cases hVF

end Sys2Proof.Machine
end

section
/-! Keys and timers (spec/44_keys_timers.md R290 to R299). -/

namespace Sys2Proof.Machine

section
variable {s t : State} {x : Reg}

theorem exec_skp_inside (h : (s.getV x).toNat < 16) :
    exec (.skp x) s = .next (s.setPc (if s.key[(s.getV x).toNat] = true then s.pc + 2 else s.pc)) := by
  rw [exec, execSkp, readKey_inside h, andThen_next, skipIf_eq]

theorem exec_sknp_inside (h : (s.getV x).toNat < 16) :
    exec (.sknp x) s = .next (s.setPc (if s.key[(s.getV x).toNat] = true then s.pc else s.pc + 2)) := by
  rw [exec, execSknp, readKey_inside h, andThen_next, skipIf_eq]
  cases s.key[(s.getV x).toNat] <;> rfl

theorem exec_skp_outside (h : 16 ≤ (s.getV x).toNat) : exec (.skp x) s = .fault (.keyOOB (s.getV x) s.site) := by
  rw [exec, execSkp, readKey_outside h, andThen_fault]

theorem exec_sknp_outside (h : 16 ≤ (s.getV x).toNat) : exec (.sknp x) s = .fault (.keyOOB (s.getV x) s.site) := by
  rw [exec, execSknp, readKey_outside h, andThen_fault]

/-- SKP completes exactly when `Vx` is a key index. -/
theorem exec_skp_eq_next : exec (.skp x) s = .next t ↔ ∃ h : (s.getV x).toNat < 16,
    t = s.setPc (if s.key[(s.getV x).toNat] = true then s.pc + 2 else s.pc) := by
  by_cases h : (s.getV x).toNat < 16
  · rw [exec_skp_inside h, exists_prop_of_true h, Host.Outcome.next.injEq, eq_comm]
  · simp [exec_skp_outside (not_lt.mp h), h]

/-- SKNP completes exactly when `Vx` is a key index. -/
theorem exec_sknp_eq_next : exec (.sknp x) s = .next t ↔ ∃ h : (s.getV x).toNat < 16,
    t = s.setPc (if s.key[(s.getV x).toNat] = true then s.pc else s.pc + 2) := by
  by_cases h : (s.getV x).toNat < 16
  · rw [exec_sknp_inside h, exists_prop_of_true h, Host.Outcome.next.injEq, eq_comm]
  · simp [exec_sknp_outside (not_lt.mp h), h]

/-- FX0A with no key pressed moves `pc` back to itself. -/
theorem exec_ldVxK_of_noKey (h : NoKey s) : exec (.ldVxK x) s = .next (s.setPc (s.pc - 2)) := by
  simp only [exec, execLdVxK, firstKey_none.mpr h]

/-- FX0A with a key pressed stores the number of a key. -/
theorem exec_ldVxK_of_firstKey {k : Nat} (h : firstKey s = some k) :
    exec (.ldVxK x) s = .next (s.setV x (BitVec.ofNat 8 k)) := by
  simp only [exec, execLdVxK, h]

/-- FX0A completes: it waits for a key, or stores the number of one. -/
theorem exec_ldVxK_cases (x : Reg) (s : State) : (NoKey s ∧ exec (.ldVxK x) s = .next (s.setPc (s.pc - 2))) ∨
    (¬ NoKey s ∧ ∃ b, exec (.ldVxK x) s = .next (s.setV x b)) := by
  cases h : firstKey s with
  | none => exact .inl ⟨firstKey_none.mp h, exec_ldVxK_of_noKey (firstKey_none.mp h)⟩
  | some k => exact .inr ⟨fun hno => by simp [firstKey_none.mpr hno] at h, _, exec_ldVxK_of_firstKey h⟩

end

/-- Settles O45: inside the range of keys both are a write to `pc`. -/
theorem keySkipsReadTheirKey : Obligations.KeySkipsReadTheirKey := fun _ _ =>
  ⟨fun h => ⟨completes_setPc (exec_skp_inside h), completes_setPc (exec_sknp_inside h)⟩,
    fun h => ⟨exec_skp_outside h, exec_sknp_outside h⟩⟩

/-- Settles O47: the key scan finds nothing, or the lowest pressed key. -/
theorem keyWaitTakesTheLowestKeyOrRewinds : Obligations.KeyWaitTakesTheLowestKeyOrRewinds := by
  refine fun x s => ⟨fun hno => completes_setPc (exec_ldVxK_of_noKey hno), fun k hk hlow => ?_⟩
  have hscan : firstKey s = some k.val :=
    firstKey_some.mpr ⟨k.isLt, hk, fun j hj => hlow ⟨j, hj.trans k.isLt⟩ hj⟩
  obtain ⟨t, hexec, hV, hframe⟩ := completes_setV (exec_ldVxK_of_firstKey (x := x) hscan)
  exact ⟨t, hexec, by rw [hV]; exact toNat_ofNat_digit (by omega), hframe⟩

/-- Settles O49: both timers count down, and the edge is the sound timer at 1. -/
theorem tickTimersCountsDown : Obligations.TickTimersCountsDown := by
  refine fun s hrun => ⟨⟨decrementTimers s, ?_, countDown_toNat s.DT, countDown_toNat s.ST, ?_⟩,
    whenRunning_of_running hrun _⟩
  · have hedge : soundStops s = decide (s.ST.toNat = 1) := decide_eq_decide.mpr BitVec.toNat_eq
    rw [← hedge]
    exact whenRunning_of_running hrun _
  · exact (changesOnly_setDT _ s).trans (changesOnly_setST _ _)

/-- Settles O50: inside the range of keys the press is a write of one flag. -/
theorem keyPressSetsOneFlag : Obligations.KeyPressSetsOneFlag := by
  refine fun k pressed s hrun => ⟨fun h => ⟨s.setKey ⟨k, h⟩ pressed, ?_, ?_, changesOnly_setKey _ pressed s⟩, fun h => ?_⟩
  · exact (whenRunning_of_running hrun _).trans (settle_eq_done.mpr ⟨rfl, by rw [pressKey, dif_pos h]⟩)
  · exact (s.setKey_get ⟨k, h⟩ pressed ⟨k, h⟩).trans (if_pos rfl)
  · refine (whenRunning_of_running hrun _).trans ?_
    rw [pressKey, dif_neg (not_lt.mpr h), settle]

end Sys2Proof.Machine
end

section
/-! A step (spec/30_encoding.md R95, R96, R104): it refuses, or faults in the fetch, or runs the decoded instruction on the state
with `pc` moved on by 2. -/

namespace Sys2Proof.Machine

section
variable {s : State}

/-- The word at an address, written as a number (R64). -/
theorem State.wordAt_eq_ofNat (s : State) (a : Nat) :
    s.wordAt a = BitVec.ofNat 16 (256 * (s.byteAt a).toNat + (s.byteAt (a + 1)).toNat) := by
  rw [← State.wordAt_toNat, BitVec.ofNat_toNat, BitVec.setWidth_eq]

theorem step_of_running (h : s.status = .running) : step s = andThen (fetchInstr s) fun r => exec r.1 r.2 := by
  simp only [step, h]

theorem step_of_faulted {f : Fault} (h : s.status = .faulted f) : step s = .refused (.machineFaulted f) := by
  simp only [step, h]

/-- A step on a legal word runs its instruction. -/
theorem step_of_decodeWord {i : Instr} (hrun : s.status = .running) (hpc : s.pc.toNat + 1 < 4096)
    (h : decodeWord (s.wordAt s.pc.toNat) = some i) : step s = exec i (s.setPc (s.pc + 2)) := by
  rw [step_of_running hrun, fetchInstr_eq_next.mpr ⟨hpc, h, rfl⟩, andThen_next]

theorem fetchInstr_outside (h : 4096 ≤ s.pc.toNat + 1) : fetchInstr s = .fault (.fetchOOB s.pc) := by
  rw [fetchInstr, if_pos h]

theorem fetchInstr_illegal (hpc : s.pc.toNat + 1 < 4096) (h : decodeWord (s.wordAt s.pc.toNat) = none) :
    fetchInstr s = .fault (.unimplementedOpcode (s.wordAt s.pc.toNat) s.pc) := by
  rw [fetchInstr, if_neg (not_le.mpr hpc), h]

end

/-- Settles O7: the fetched word is the number that the two bytes make. -/
theorem stepRunsTheDecodedInstruction : Obligations.StepRunsTheDecodedInstruction := by
  intro s i hrun hpc h
  rw [← State.wordAt_eq_ofNat] at h
  exact step_of_decodeWord hrun hpc h

/-- Settles O8: the fetch checks both of its addresses. -/
theorem fetchPastTheEndFaults : Obligations.FetchPastTheEndFaults := by
  intro s hrun h
  rw [step_of_running hrun, fetchInstr_outside h, andThen_fault]

/-- Settles O9: the fetch decodes the word that the two bytes make. -/
theorem illegalWordFaults : Obligations.IllegalWordFaults := by
  intro s w hrun hpc hw h
  rw [← State.wordAt_eq_ofNat] at hw
  rw [step_of_running hrun, fetchInstr_illegal hpc (hw ▸ h), andThen_fault, hw]

/-- Settles O12: the step and every transaction but `create` and `reset` look at the status first. -/
theorem faultedMachineRefuses : Obligations.FaultedMachineRefuses := by
  intro s f h
  have hrefuse (r : TransactionResult) : whenRunning s r = .refused (.machineFaulted f) := by simp only [whenRunning, h]
  refine ⟨fun tr hcreate hreset => ?_, step_of_faulted h⟩
  cases tr with
  | create => exact absurd rfl hcreate
  | reset => exact absurd rfl hreset
  | tick => rw [transact, step_of_faulted h, settle]
  | load bytes | tickTimers | getDisplay | keyPress k pressed | readSoundTimer => exact hrefuse _

/-- A move of `pc` to where it was is no change. -/
theorem State.setPc_setPc_pc (s : State) (w : Word) : (s.setPc w).setPc s.pc = s := rfl

/-- Settles O48: the instruction takes back the move of `pc` that the fetch made. -/
theorem keyWaitTickChangesNothing : Obligations.KeyWaitTickChangesNothing := by
  intro x s hrun hpc h hno
  have hback : (s.setPc (s.pc + 2)).pc - 2 = s.pc := BitVec.add_sub_cancel s.pc 2
  have hwait : NoKey (s.setPc (s.pc + 2)) := hno
  rw [stepRunsTheDecodedInstruction s _ hrun hpc h]
  exact (exec_ldVxK_of_noKey hwait).trans (by rw [hback, State.setPc_setPc_pc])

/-- Settles O56: the word is the one of JP to `pc`, which takes back the move of `pc` that the fetch made. -/
theorem jumpToSelfIdles : Obligations.JumpToSelfIdles := by
  intro s hrun hpc hword
  have hdecode : decodeWord (s.wordAt s.pc.toNat) = some (.jp (BitVec.ofNat 16 s.pc.toNat)) := by
    rw [State.wordAt_eq_ofNat, hword]
    exact decodeWord_ofNat_formatNNN (by omega) rfl rfl rfl
  rw [BitVec.ofNat_toNat, BitVec.setWidth_eq] at hdecode
  exact step_of_decodeWord hrun hpc hdecode

/-- Settles O55: the store leaves `pc` and the status, so that the step after it fetches the two registers stored at `pc`. -/
theorem storeOverTheNextInstructionIsFetched : Obligations.StoreOverTheNextInstructionIsFetched := by
  intro x j j' s t i hwf hrun hstore hj hj' hpc hdecode
  have hI : s.I.toNat + x.val < 4096 := (exec_storeRegs_eq_next.mp hstore).1
  obtain ⟨hbytes, hframe⟩ := ((registersAreStored x s hwf).1 hI).of_exec hstore
  have htpc : t.pc = s.pc := hframe .pc (by simp)
  have htstatus : t.status = s.status := hframe .status (by simp)
  have hhi : t.byteAt t.pc.toNat = s.getV j := by
    rw [htpc, hpc]
    exact hbytes j (by omega)
  have hlo : t.byteAt (t.pc.toNat + 1) = s.getV j' := by
    rw [htpc, hpc, Nat.add_assoc, ← hj]
    exact hbytes j' hj'
  refine stepRunsTheDecodedInstruction t i (htstatus.trans hrun) (by rw [htpc]; omega) ?_
  rw [hhi, hlo]
  exact hdecode

end Sys2Proof.Machine
end

section
/-! The reset state (spec/10_state.md R40, spec/70_reset_and_hazards.md R370, R371). -/

namespace Sys2Proof.Machine

theorem resetByte_font (a : Fin 80) : resetByte a.val = Config.font[a] := by
  rw [resetByte, dif_pos a.isLt]
  rfl

theorem resetByte_above {a : Nat} (h : 80 ≤ a) : resetByte a = 0 := by
  rw [resetByte, dif_neg (not_lt.mpr h)]

/-- Settles O13: component by component; memory lists nothing, so that it reads as the reset contents. -/
theorem resetStateIsAsListed : Obligations.ResetStateIsAsListed := by
  refine ⟨fun r => ?_, rfl, rfl, rfl, fun k => ?_, rfl, rfl, fun k => ?_, Display.cell_off, resetByte_font,
    fun a ha _ => resetByte_above ha, rfl⟩
  · exact Vector.getElem_replicate r.isLt
  · exact Vector.getElem_replicate k.isLt
  · exact Vector.getElem_replicate k.isLt

/-- Settles O14: both are `restart`. -/
theorem createAndResetGiveTheResetState : Obligations.CreateAndResetGiveTheResetState := fun _ => ⟨rfl, rfl⟩

/-- Settles O15: nothing is listed in memory, `sp` and the stack are 0, and `pc` is 0x200. -/
theorem invHoldsAtReset : Obligations.InvHoldsAtReset := by
  have hinv : Inv State.reset := ⟨Memory.wf_reset, by decide, by decide, by decide⟩
  exact ⟨hinv, Memory.wf_reset, fun _ => hinv⟩

end Sys2Proof.Machine
end

section
/-! What any instruction can do: how it can stop (spec/60_exceptions.md R332), where it leaves `pc` (spec/10_state.md R27) and what
it writes (R24). Each is a case split over the instructions; the instructions that can stop, or that write more than one part, have
their lemma `exec_…` above. -/

namespace Sys2Proof.Machine

/-! ## Stops -/

/-- The faults of the list of R332: which instruction can raise which fault in `s`. -/
inductive ListedFault (s : State) : Instr → Fault → Prop
  | underflow : s.sp.toNat = 0 → ListedFault s .ret (.stackUnderflow s.site)
  | overflow (nnn : Word) : 16 ≤ s.sp.toNat → ListedFault s (.call nnn) (.stackOverflow s.sp s.site)
  | drawRow (x y : Reg) (n : Nat) {a : Nat} : 4096 ≤ a → ListedFault s (.drw x y n) (.memOOB a s.site)
  | storeDigit (x : Reg) {a : Nat} : 4096 ≤ a → ListedFault s (.ldBVx x) (.memOOB a s.site)
  | storeReg (x : Reg) {a : Nat} : 4096 ≤ a → ListedFault s (.storeRegs x) (.memOOB a s.site)
  | loadReg (x : Reg) {a : Nat} : 4096 ≤ a → ListedFault s (.loadRegs x) (.memOOB a s.site)
  | keyPressed (x : Reg) : 16 ≤ (s.getV x).toNat → ListedFault s (.skp x) (.keyOOB (s.getV x) s.site)
  | keyNotPressed (x : Reg) : 16 ≤ (s.getV x).toNat → ListedFault s (.sknp x) (.keyOOB (s.getV x) s.site)

/-- An instruction completes, or raises a listed fault, or is RET with an illegal depth and is refused. -/
theorem exec_outcome (i : Instr) (s : State) :
    (∃ t, exec i s = .next t) ∨ (∃ f, exec i s = .fault f ∧ ListedFault s i f) ∨
      (i = .ret ∧ 16 < s.sp.toNat ∧ exec i s = .refused (.illegalStackPointer s.sp)) := by
  cases i with
  | ret =>
    obtain ⟨h0, h, -⟩ | ⟨h, -⟩ | ⟨h, -⟩ := pop_cases s
    · exact .inl ⟨_, exec_ret_legal h0 h⟩
    · exact .inr (.inl ⟨_, exec_ret_empty h, .underflow h⟩)
    · exact .inr (.inr ⟨rfl, h, exec_ret_illegal h⟩)
  | call nnn =>
    obtain h | h := lt_or_ge s.sp.toNat 16
    · exact .inl ⟨_, exec_call_room h⟩
    · exact .inr (.inl ⟨_, exec_call_full h, .overflow nnn h⟩)
  | drw x y n =>
    by_cases h : n = 0 ∨ s.I.toNat + n ≤ 4096
    · exact .inl ⟨_, exec_drw_inside h⟩
    · exact .inr (.inl ⟨_, exec_drw_outside (by omega) (by omega), .drawRow x y n (le_max_right _ _)⟩)
  | ldBVx x =>
    obtain ⟨h, -⟩ | ⟨a, ha, h⟩ := storeBytes_cases (decimalDigits (s.getV x)) (effAddr s 0) s
    · exact .inl ⟨_, h⟩
    · exact .inr (.inl ⟨_, h, .storeDigit x ha⟩)
  | storeRegs x =>
    obtain ⟨h, -⟩ | ⟨a, ha, h⟩ := storeBytes_cases (regRange s x) (effAddr s 0) s
    · exact .inl ⟨_, h⟩
    · exact .inr (.inl ⟨_, h, .storeReg x ha⟩)
  | loadRegs x =>
    obtain ⟨v, h, -⟩ | ⟨a, ha, h⟩ := loadBytes_cases (x.val + 1) 0 (effAddr s 0) s (by omega)
    · exact .inl ⟨_, h⟩
    · exact .inr (.inl ⟨_, h, .loadReg x ha⟩)
  | skp x =>
    obtain h | h := lt_or_ge (s.getV x).toNat 16
    · exact .inl ⟨_, exec_skp_inside h⟩
    · exact .inr (.inl ⟨_, exec_skp_outside h, .keyPressed x h⟩)
  | sknp x =>
    obtain h | h := lt_or_ge (s.getV x).toNat 16
    · exact .inl ⟨_, exec_sknp_inside h⟩
    · exact .inr (.inl ⟨_, exec_sknp_outside h, .keyNotPressed x h⟩)
  | ldVxK x =>
    obtain ⟨-, h⟩ | ⟨-, b, h⟩ := exec_ldVxK_cases x s
    · exact .inl ⟨_, h⟩
    · exact .inl ⟨_, h⟩
  | _ => exact .inl ⟨_, rfl⟩

theorem listedFault_of_exec {i : Instr} {s : State} {f : Fault} (h : exec i s = .fault f) : ListedFault s i f := by
  obtain ⟨t, ht⟩ | ⟨g, hg, hlisted⟩ | ⟨-, -, hr⟩ := exec_outcome i s
  · cases ht.symm.trans h
  · cases hg.symm.trans h
    exact hlisted
  · cases hr.symm.trans h

/-- Settles O10: `exec` raises listed faults only, and refuses RET with an illegal depth only. -/
theorem onlyTheListedInstructionsFault : Obligations.OnlyTheListedInstructionsFault := by
  refine ⟨fun i s f h => ?_, fun i s r h => ?_⟩
  · cases listedFault_of_exec h with
    | underflow h0 => exact .inl ⟨rfl, BitVec.eq_of_toNat_eq h0, rfl⟩
    | overflow nnn hsp => exact .inr (.inl ⟨⟨nnn, rfl⟩, hsp, rfl⟩)
    | drawRow x y n ha => exact .inr (.inr (.inl ⟨.inl ⟨x, y, n, rfl⟩, _, ha, rfl⟩))
    | storeDigit x ha => exact .inr (.inr (.inl ⟨.inr (.inl ⟨x, rfl⟩), _, ha, rfl⟩))
    | storeReg x ha => exact .inr (.inr (.inl ⟨.inr (.inr (.inl ⟨x, rfl⟩)), _, ha, rfl⟩))
    | loadReg x ha => exact .inr (.inr (.inl ⟨.inr (.inr (.inr ⟨x, rfl⟩)), _, ha, rfl⟩))
    | keyPressed x hk => exact .inr (.inr (.inr ⟨x, .inl rfl, hk, rfl⟩))
    | keyNotPressed x hk => exact .inr (.inr (.inr ⟨x, .inr rfl, hk, rfl⟩))
  · obtain ⟨t, ht⟩ | ⟨g, hg, -⟩ | ⟨hi, hsp, hr⟩ := exec_outcome i s
    · cases ht.symm.trans h
    · cases hg.symm.trans h
    · cases hr.symm.trans h
      exact ⟨hi, hsp, rfl⟩

/-! ## Where `pc` goes, and what is written -/

/-- LD Vx,[I] completes only with its last address inside memory. -/
theorem inside_of_exec_loadRegs {s t : State} {x : Reg} (h : exec (.loadRegs x) s = .next t) : s.I.toNat + x.val < 4096 := by
  by_contra hout
  cases (exec_loadRegs_outside (not_lt.mp hout)).symm.trans h

/-- Settles O26: the row of R27 for each instruction. -/
theorem finalPcOfEachInstruction : Obligations.FinalPcOfEachInstruction := by
  intro i s t h
  cases i with
  | ret =>
    obtain ⟨h0, h16, rfl⟩ := exec_ret_eq_next.mp h
    exact ⟨by omega, rfl⟩
  | call nnn =>
    obtain ⟨-, rfl⟩ := exec_call_eq_next.mp h
    rfl
  | seByte x nn => exact ((skipsCompareAndSkip x x nn s).1.of_exec h).1
  | sneByte x nn => exact ((skipsCompareAndSkip x x nn s).2.1.of_exec h).1.trans (ite_not _ _ _)
  | seReg x y => exact ((skipsCompareAndSkip x y 0 s).2.2.1.of_exec h).1
  | sneReg x y => exact ((skipsCompareAndSkip x y 0 s).2.2.2.of_exec h).1.trans (ite_not _ _ _)
  | skp x =>
    obtain ⟨hk, rfl⟩ := exec_skp_eq_next.mp h
    exact ⟨hk, rfl⟩
  | sknp x =>
    obtain ⟨hk, rfl⟩ := exec_sknp_eq_next.mp h
    exact ⟨hk, rfl⟩
  | ldVxK x =>
    obtain ⟨hno, hexec⟩ | ⟨hkey, b, hexec⟩ := exec_ldVxK_cases x s
    · cases hexec.symm.trans h
      exact ⟨fun _ => rfl, absurd hno⟩
    · cases hexec.symm.trans h
      exact ⟨fun hno => absurd hno hkey, fun _ => rfl⟩
  | drw x y n =>
    obtain ⟨-, rfl⟩ := exec_drw_eq_next.mp h
    rfl
  | ldBVx x =>
    obtain ⟨-, rfl⟩ := exec_ldBVx_eq_next.mp h
    rfl
  | storeRegs x =>
    obtain ⟨-, rfl⟩ := exec_storeRegs_eq_next.mp h
    rfl
  | loadRegs x => exact ((completes_loadRegs (inside_of_exec_loadRegs h)).of_exec h).2 .pc (by simp)
  | _ => cases h; rfl

/-- Settles O52: the frame of each instruction, put together from the frames of its writes. -/
theorem instructionsWriteOnlyWhatTheTableGives : Obligations.InstructionsWriteOnlyWhatTheTableGives := by
  intro i s t hwf h
  cases i with
  | nop => cases h; exact ChangesOnly.refl _ s
  | cls => cases h; exact changesOnly_setDisp _ s
  | ret =>
    obtain ⟨-, -, rfl⟩ := exec_ret_eq_next.mp h
    exact (changesOnly_setSp _ s).trans (changesOnly_setPc _ _)
  | call nnn =>
    obtain ⟨hroom, rfl⟩ := exec_call_eq_next.mp h
    refine ((changesOnly_setSp _ s).trans ((changesOnly_setPc nnn _).trans (changesOnly_setStack _ s.pc _))).mono ?_
    exact fun p => Or.imp_right (Or.imp_right fun hp => ⟨_, hp, rfl⟩)
  | jp nnn | jpV0 nnn => cases h; exact changesOnly_setPc _ s
  | seByte x nn => exact ((skipsCompareAndSkip x x nn s).1.of_exec h).2
  | sneByte x nn => exact ((skipsCompareAndSkip x x nn s).2.1.of_exec h).2
  | seReg x y => exact ((skipsCompareAndSkip x y 0 s).2.2.1.of_exec h).2
  | sneReg x y => exact ((skipsCompareAndSkip x y 0 s).2.2.2.of_exec h).2
  | ldByte x nn | addByte x nn | ldVxDT x => cases h; exact changesOnly_setV x _ s
  | ldReg x y | orReg x y | andReg x y | xorReg x y => cases h; exact changesOnly_setV x _ s
  | addReg x y | subReg x y | subnReg x y => cases h; exact (changesOnly_setV x _ s).trans (changesOnly_setV VF _ _)
  | shr x y => exact ((shiftsSetFlagThenShift x y s).1.of_exec h).2.2
  | shl x y => exact ((shiftsSetFlagThenShift x y s).2.of_exec h).2.2
  | ldI nnn => cases h; exact changesOnly_setI _ s
  | addIVx x | ldFVx x => cases h; exact changesOnly_setI _ s
  | rnd x nn => cases h; exact (changesOnly_setV x _ s).trans (changesOnly_countDraw _)
  | drw x y n =>
    obtain ⟨-, rfl⟩ := exec_drw_eq_next.mp h
    exact (changesOnly_setV VF _ s).trans (changesOnly_setDisp _ _)
  | skp x =>
    obtain ⟨-, rfl⟩ := exec_skp_eq_next.mp h
    exact changesOnly_setPc _ s
  | sknp x =>
    obtain ⟨-, rfl⟩ := exec_sknp_eq_next.mp h
    exact changesOnly_setPc _ s
  | ldVxK x =>
    obtain ⟨-, hexec⟩ | ⟨-, b, hexec⟩ := exec_ldVxK_cases x s
    · cases hexec.symm.trans h
      exact (changesOnly_setPc _ s).mono fun _ => .inr
    · cases hexec.symm.trans h
      exact (changesOnly_setV x b s).mono fun _ => .inl
  | ldDTVx x => cases h; exact changesOnly_setDT _ s
  | ldSTVx x => cases h; exact changesOnly_setST _ s
  | ldBVx x =>
    obtain ⟨hin, rfl⟩ := exec_ldBVx_eq_next.mp h
    exact changesOnly_putBytes (a := effAddr s 0) (bs := decimalDigits (s.getV x)) hwf hin
  | storeRegs x => exact (((registersAreStored x s hwf).1 (exec_storeRegs_eq_next.mp h).1).of_exec h).2
  | loadRegs x => exact ((completes_loadRegs (inside_of_exec_loadRegs h)).of_exec h).2

end Sys2Proof.Machine
end

section
/-! The invariant (spec/10_state.md R28, R36; log entry 8). For an instruction it is put together from what is known of its parts:
memory stays canonical (`exec_keeps_wf`), `sp` and the stack change only by CALL and RET (`mayWrite_sp`, `mayWrite_stack`), and the
row of R27 bounds `pc` (`PcAfter.le`). Schedules follow by induction over the list of transactions. -/

namespace Sys2Proof.Machine

section
variable {i : Instr} {s t : State}

/-- Every instruction keeps memory in canonical form: only LD B and LD [I] write it, below 4096. -/
theorem exec_keeps_wf (hwf : Memory.wf s.mem = true) (h : exec i s = .next t) : Memory.wf t.mem = true := by
  cases i with
  | ldBVx x =>
    obtain ⟨hin, rfl⟩ := exec_ldBVx_eq_next.mp h
    exact Memory.wf_putBytes hwf hin
  | storeRegs x =>
    obtain ⟨hin, rfl⟩ := exec_storeRegs_eq_next.mp h
    exact Memory.wf_putBytes hwf (by rw [length_regRange]; exact hin)
  | loadRegs x =>
    obtain ⟨v, hexec, -⟩ | ⟨a, -, hexec⟩ := loadBytes_cases (x.val + 1) 0 (effAddr s 0) s (by omega)
    · cases hexec.symm.trans h
      exact hwf
    · cases hexec.symm.trans h
  | ret =>
    obtain ⟨-, -, rfl⟩ := exec_ret_eq_next.mp h
    exact hwf
  | call nnn =>
    obtain ⟨-, rfl⟩ := exec_call_eq_next.mp h
    exact hwf
  | drw x y n =>
    obtain ⟨-, rfl⟩ := exec_drw_eq_next.mp h
    exact hwf
  | skp x =>
    obtain ⟨-, rfl⟩ := exec_skp_eq_next.mp h
    exact hwf
  | sknp x =>
    obtain ⟨-, rfl⟩ := exec_sknp_eq_next.mp h
    exact hwf
  | ldVxK x =>
    obtain ⟨-, hexec⟩ | ⟨-, b, hexec⟩ := exec_ldVxK_cases x s
    · cases hexec.symm.trans h
      exact hwf
    · cases hexec.symm.trans h
      exact hwf
  | seByte x nn | sneByte x nn => cases h; rw [skipIf_eq]; exact hwf
  | seReg x y | sneReg x y => cases h; rw [skipIf_eq]; exact hwf
  | _ => cases h; exact hwf

theorem mayWrite_sp (h : MayWrite i s .sp) : i = .ret ∨ ∃ nnn, i = .call nnn := by
  cases i <;> simp_all [MayWrite]

theorem mayWrite_stack {k : Fin 16} (h : MayWrite i s (.stack k)) : ∃ nnn, i = .call nnn := by
  cases i <;> simp_all [MayWrite]

/-- `sp` stays a legal depth: CALL completes only below 16, and RET only above 0. -/
theorem exec_keeps_sp (hwf : Memory.wf s.mem = true) (hsp : s.sp.toNat ≤ 16) (h : exec i s = .next t) :
    t.sp.toNat ≤ 16 := by
  by_cases hmay : MayWrite i s .sp
  · obtain rfl | ⟨nnn, rfl⟩ := mayWrite_sp hmay
    · obtain ⟨h0, -, rfl⟩ := exec_ret_eq_next.mp h
      exact (toNat_sp_sub_one h0).trans_le (by omega)
    · obtain ⟨hroom, rfl⟩ := exec_call_eq_next.mp h
      exact (toNat_sp_add_one hroom).trans_le hroom
  · have hkept : t.sp = s.sp := instructionsWriteOnlyWhatTheTableGives i s t hwf h .sp hmay
    rw [hkept]
    exact hsp

/-- Every stack entry stays at most 4096: CALL pushes `pc`. -/
theorem exec_keeps_stack (hwf : Memory.wf s.mem = true) (hstack : ∀ k : Fin 16, s.stack[k].toNat ≤ 4096)
    (hpc : s.pc.toNat ≤ 4096) (h : exec i s = .next t) (k : Fin 16) : t.stack[k].toNat ≤ 4096 := by
  by_cases hmay : MayWrite i s (.stack k)
  · obtain ⟨nnn, rfl⟩ := mayWrite_stack hmay
    obtain ⟨hroom, rfl⟩ := exec_call_eq_next.mp h
    refine (congrArg BitVec.toNat (s.setStack_get ⟨s.sp.toNat, hroom⟩ s.pc k)).trans_le ?_
    split
    · exact hpc
    · exact hstack k
  · have hkept : t.stack[k] = s.stack[k] := instructionsWriteOnlyWhatTheTableGives i s t hwf h (.stack k) hmay
    rw [hkept]
    exact hstack k

/-- The row of R27 bounds `pc` after a fetch: by 0xFFF + 0xFF for JP V0, and by less for every other instruction (R28). -/
theorem PcAfter.le (h : PcAfter i s t) (hi : i.wellFormed = true) (hstack : ∀ k : Fin 16, s.stack[k].toNat ≤ 4096)
    (hlow : 2 ≤ s.pc.toNat) (hpc : s.pc.toNat ≤ 4096) : t.pc.toNat ≤ 0x10FE := by
  have hskip : (s.pc + 2).toNat ≤ 0x10FE := by bv_omega
  have hback : (s.pc - 2).toNat ≤ 0x10FE := by bv_omega
  have hstay : s.pc.toNat ≤ 0x10FE := by omega
  cases i with
  | ret =>
    obtain ⟨hk, h⟩ := h
    rw [h]
    exact (hstack ⟨_, hk⟩).trans (by omega)
  | jp nnn | call nnn =>
    have hnnn : nnn.toNat < 4096 := of_decide_eq_true hi
    rw [show t.pc = nnn from h]
    omega
  | jpV0 nnn =>
    have hnnn : nnn.toNat < 4096 := of_decide_eq_true hi
    rw [show t.pc = indexedTarget nnn (s.getV 0) from h, indexedTarget_toNat hnnn]
    omega
  | seByte x nn | sneByte x nn | seReg x y | sneReg x y =>
    rw [h]
    split <;> assumption
  | skp x | sknp x =>
    obtain ⟨_, h⟩ := h
    rw [h]
    split <;> assumption
  | ldVxK x =>
    by_cases hno : NoKey s
    · rw [h.1 hno]; exact hback
    · rw [h.2 hno]; exact hstay
  | _ => rw [h]; exact hstay

/-- A well-formed instruction that completes after a fetch keeps the invariant. -/
theorem exec_keeps_inv (hi : i.wellFormed = true) (hinv : Inv s) (hlow : 2 ≤ s.pc.toNat) (hpc : s.pc.toNat ≤ 4096)
    (h : exec i s = .next t) : Inv t := by
  obtain ⟨hwf, hsp, hstack, -⟩ := hinv
  exact ⟨exec_keeps_wf hwf h, exec_keeps_sp hwf hsp h, exec_keeps_stack hwf hstack hpc h,
    (finalPcOfEachInstruction i s t h).le hi hstack hlow hpc⟩

end

/-- Settles O16: a fetch from inside memory moves `pc` to at most 4096, and decodes a well-formed instruction. -/
theorem stepKeepsInv : Obligations.StepKeepsInv := by
  intro s t hinv hstep
  obtain ⟨-, hpc, i, hdecode, hexec⟩ := step_eq_next.mp hstep
  obtain ⟨hwf, hsp, hstack, -⟩ := hinv
  have hfetched : (s.setPc (s.pc + 2)).pc.toNat = s.pc.toNat + 2 := by
    rw [State.setPc_pc]
    bv_omega
  have hinv' : Inv (s.setPc (s.pc + 2)) := ⟨hwf, hsp, hstack, by omega⟩
  exact exec_keeps_inv (wellFormed_of_decodeWord hdecode) hinv' (by omega) (by omega) hexec

section
variable {s t : State}

theorem Inv.runInv (h : Inv s) : RunInv s := ⟨h.1, fun _ => h⟩

theorem runInv_enterFault (f : Fault) (s : State) : RunInv (enterFault f s) :=
  ⟨enterFault_wf f s, fun h => by cases h⟩

/-- Of what `restart` gives, only the counter of free values depends on `s`. -/
theorem runInv_restart (s : State) : RunInv (restart s) := invHoldsAtReset.2

/-- A load that completes has written inside memory. -/
theorem inside_of_loadProgram {bytes : List Byte} (h : loadProgram bytes s = .next t) : 0x200 + bytes.length ≤ 4096 := by
  by_contra hlong
  cases (loadProgram_eq_fault.mpr ⟨not_le.mp hlong, rfl⟩).symm.trans h

theorem RunInv.of_done {tr : Transaction} {reply : Reply} (h : RunInv s) (htr : transact tr s = .done reply t) : RunInv t := by
  cases tr with
  | create | reset => cases htr; exact runInv_restart s
  | load bytes =>
    obtain ⟨hrun, hdone⟩ := whenRunning_eq_done.mp htr
    have hload := (settle_eq_done.mp hdone).2
    obtain ⟨-, hinv⟩ := h.2 hrun
    rw [loadProgram_eq_next hload]
    exact Inv.runInv ⟨Memory.wf_putBytes h.1 (inside_of_loadProgram hload), hinv⟩
  | tick =>
    have hstep := (settle_eq_done.mp htr).2
    exact (stepKeepsInv s t (h.2 (step_eq_next.mp hstep).1) hstep).runInv
  | keyPress k pressed =>
    obtain ⟨_, rfl⟩ := pressKey_eq_next (settle_eq_done.mp (whenRunning_eq_done.mp htr).2).2
    exact h
  | tickTimers | getDisplay | readSoundTimer =>
    cases (whenRunning_eq_done.mp htr).2
    exact h

/-- Every transaction keeps the invariant of running machines: it completes, or it leaves the state of fault entry. -/
theorem RunInv.of_transact {tr : Transaction} (h : RunInv s) (htr : afterTransaction (transact tr s) = some t) : RunInv t := by
  cases hresult : transact tr s with
  | done reply u =>
    rw [hresult] at htr
    cases htr
    exact h.of_done hresult
  | faulted f u =>
    rw [hresult] at htr
    cases htr
    rw [(transact_eq_faulted hresult).1]
    exact runInv_enterFault f s
  | refused r =>
    rw [hresult] at htr
    cases htr

end

/-- Settles O17: by induction over the schedule. -/
theorem schedulesKeepRunInv : Obligations.SchedulesKeepRunInv := by
  intro trs
  induction trs with
  | nil =>
    intro s t hinv h
    cases h
    exact hinv
  | cons tr trs ih =>
    intro s t hinv h
    obtain ⟨u, hu, h⟩ := Option.bind_eq_some_iff.mp h
    exact ih u t (hinv.of_transact hu) h

end Sys2Proof.Machine
end
